-- ==== Sys2Proof/Word.lean ====
section
/-! DEFINITION. The word types of the block: the widths of `00_scope.md` R9 and `10_state.md` R20. -/

namespace Sys2Proof

/-- A command, micro-operation or event word: 64 bits (R60, R70). -/
abbrev Word := BitVec 64

/-- One byte of a word on a byte-wide channel (R52). -/
abbrev Byte := BitVec 8

/-- A millisecond tick of the platform's counter, `TS_WIDTH` = 32 bits (R9, R27). -/
abbrev Tick := BitVec 32

/-- The tag of a sample request, `TAG_WIDTH` = 8 bits (R9, R33). -/
abbrev Tag := BitVec 8

/-- A push count, `CNT_WIDTH` = 6 bits (R9, R29); also the `MINLEN` operand (R61). -/
abbrev Count := BitVec 6

/-- A frame, `FRAME_LEN` = 59 bits; bit `i` is the `i`-th received bit (R51). -/
abbrev Frame := BitVec 59

/-- A `TIMER_REQ` word, 16 bits (R72). -/
abbrev TimerWord := BitVec 16

end Sys2Proof
end

