-- ==== Sys2Proof/Config.lean ====
section
/-! DEFINITION. The parameters of `00_scope.md` R9 at the values this hardware takes, and the model's one free value. -/

namespace Sys2Proof.Config

/-- `J`: jitter tolerance of every timing window, in ms (R9). -/
def jitter : Nat := 50

/-- `CELL`: nominal spacing of second edges, in ms (R9). -/
def cell : Nat := 1000

/-- `HIST_DEPTH`: history entries; calibration completes at this count (R9). -/
def histDepth : Nat := 3

/-- `MAX_TICKS`: the candidate deltas are `1*CELL .. MAX_TICKS*CELL` (R9). -/
def maxTicks : Nat := 3

/-- `SYNC_MIN`: smallest tick count that marks a minute boundary (R9, R108). -/
def syncMin : Nat := 2

/-- `SAMPLE_OFFSET`: post-edge sample instant, in ms (R9). -/
def sampleOffset : Nat := 150

/-- `FRAME_LEN`: bits in a complete frame (R9). -/
def frameLen : Nat := 59

/-- `YEAR_BASE`: added to the two-digit year (R9). -/
def yearBase : Nat := 2000

/-- The value at which `BUF_CNT` saturates, `2^CNT_WIDTH - 1` (R9, R29). -/
def cntMax : Nat := 63

/-- FREE VALUE (assumption log 4). What FRM_DECODE reads on a frame bus that no BUF_EXTRACT drives: the spec states no
value there (R63, R154). It is applied to `State.freeCount`, so each such read is a fresh value; nothing evaluates it. -/
opaque undrivenFrame : Nat → Frame

end Sys2Proof.Config
end

