-- ==== Sys2Proof/Syntax.lean ====
section
/-! DEFINITION. The commands and micro-operations of the block: one constructor per row of `spec/opcode_table.json` (R65). -/

namespace Sys2Proof

/-- A command (R62) or a micro-operation (R63) with its operands. Operands are taken as they stand in their bit
fields: unsigned, never extended or scaled (R64). -/
inductive Instr where
  /-- START: bind the engine and begin listening (R201). -/
  | start
  /-- STOP: unbind the engine (R202). -/
  | stop
  /-- EDGE t0: one rising edge, stamped `t0` (R203). -/
  | edge (t0 : Tick)
  /-- FIRE tag, level: the expiry of a sample request (R208). -/
  | fire (tag : Tag) (level : Bool)
  /-- DIAG: read the state for diagnostics (R209). -/
  | diag
  /-- SCH_SCHEDULE t0: request one deferred sample (R181). -/
  | schSchedule (t0 : Tick)
  /-- TRK_RESET: clear the history (R102). -/
  | trkReset
  /-- TRK_CLASSIFY t0: classify one edge timestamp (R103). -/
  | trkClassify (t0 : Tick)
  /-- BUF_RESET: empty the buffer (R130). -/
  | bufReset
  /-- BUF_PUSH bit: append one sampled bit (R131). -/
  | bufPush (bit : Bool)
  /-- BUF_IS_COMPLETE min_len: test the number of bits pushed (R132). -/
  | bufIsComplete (minLen : Count)
  /-- BUF_EXTRACT: produce the frame (R135). -/
  | bufExtract
  /-- PAR_FOLD x: the parity of an operand (R151). -/
  | parFold (x : BitVec 32)
  /-- FRM_DECODE: validate and decode the frame on the frame bus (R154). -/
  | frmDecode
  deriving DecidableEq, Repr

end Sys2Proof
end

