-- ==== Sys2Proof/WellFormed.lean ====
section
/-! DEFINITION. What is well formed: the format an instruction has and the port it may stand on (R60, R66), and the
operand ranges of an assembler line (R67). Every operand of `Instr` has its field's own width, so a term of `Instr` by
itself has no out-of-range operand; the checks are about where it stands and about the numbers an assembler line writes. -/

namespace Sys2Proof

/-- The two formats of R60. -/
inductive Format where
  /-- A command presented on the command port; opcodes 0x1 to 0x5. -/
  | cmd
  /-- A micro-operation of one component, performed by the Controller; opcodes 0x6 to 0xE. -/
  | uop
  deriving DecidableEq, Repr

/-- The format of each instruction (R65, third column). -/
def Instr.format : Instr → Format
  | .start | .stop | .edge _ | .fire _ _ | .diag => .cmd
  | .schSchedule _ | .trkReset | .trkClassify _ | .bufReset | .bufPush _ | .bufIsComplete _ | .bufExtract
  | .parFold _ | .frmDecode => .uop

/-- Well formed on the command port: only a CMD is (R60, R66). -/
def Instr.wellFormedCommand (i : Instr) : Bool := i.format == .cmd

/-- Well formed as a micro-operation: only a UOP is (R66, its last sentences). -/
def Instr.wellFormedMicroOp (i : Instr) : Bool := i.format == .uop

/-- A line of the textual syntax of R67, its operands as the numbers written; `second` is the pseudo-instruction of
R68 and `now` the annotation `@now=n` of an EDGE line. -/
inductive AsmLine where
  | start
  | stop
  | diag
  | edge (t0 : Nat) (now : Option Nat)
  | fire (tag level : Nat)
  | second (t0 level : Nat)
  | uopSchSchedule (t0 : Nat)
  | uopTrkReset
  | uopTrkClassify (t0 : Nat)
  | uopBufReset
  | uopBufPush (bit : Nat)
  | uopBufIsComplete (minLen : Nat)
  | uopBufExtract
  | uopParFold (x : Nat)
  | uopFrmDecode
  deriving DecidableEq, Repr

/-- The operand ranges the comments of R67 give. -/
def AsmLine.wellFormed : AsmLine → Bool
  | .start | .stop | .diag | .uopTrkReset | .uopBufReset | .uopBufExtract | .uopFrmDecode => true
  | .edge t0 none => decide (t0 < 2 ^ 32)
  | .edge t0 (some now) => decide (t0 < 2 ^ 32) && decide (now < 2 ^ 32)
  | .fire tag level => decide (tag < 256) && decide (level < 2)
  | .second t0 level => decide (t0 < 2 ^ 32) && decide (level < 2)
  | .uopSchSchedule t0 | .uopTrkClassify t0 => decide (t0 < 2 ^ 32)
  | .uopBufPush bit => decide (bit < 2)
  | .uopBufIsComplete minLen => decide (minLen < 64)
  | .uopParFold x => decide (x < 2 ^ 32)

/-- The instruction a well-formed line spells (R67); `none` for an ill-formed line and for SECOND, which spells one or
two words that depend on the EDGE step (R68). -/
def AsmLine.instr? (l : AsmLine) : Option Instr :=
  if l.wellFormed then
    match l with
    | .start => some .start
    | .stop => some .stop
    | .diag => some .diag
    | .edge t0 _ => some (.edge (BitVec.ofNat 32 t0))
    | .fire tag level => some (.fire (BitVec.ofNat 8 tag) (level == 1))
    | .second _ _ => none
    | .uopSchSchedule t0 => some (.schSchedule (BitVec.ofNat 32 t0))
    | .uopTrkReset => some .trkReset
    | .uopTrkClassify t0 => some (.trkClassify (BitVec.ofNat 32 t0))
    | .uopBufReset => some .bufReset
    | .uopBufPush bit => some (.bufPush (bit == 1))
    | .uopBufIsComplete minLen => some (.bufIsComplete (BitVec.ofNat 6 minLen))
    | .uopBufExtract => some .bufExtract
    | .uopParFold x => some (.parFold (BitVec.ofNat 32 x))
    | .uopFrmDecode => some .frmDecode
  else none

end Sys2Proof
end

