-- ==== Sys2Proof/Decode.lean ====
section
/-! DEFINITION. Words to instructions and back (`30_encoding.md` R60 to R66), and words to bytes on a byte-wide channel
(`20_memory.md` R52). Decoding is total and rejects by name; the encoder is written from the same tables. -/

namespace Sys2Proof

/-- Why a word or a byte sequence spells no instruction (R66). -/
inductive DecodeError where
  /-- The opcode field holds 0x0 or 0xF. -/
  | reservedOpcode (op : BitVec 4)
  /-- A reserved or unused field of R61, R62 or R63 is not zero. -/
  | unusedFieldNotZero (op : BitVec 4)
  /-- Fewer than eight bytes of a word have come over a byte-wide channel. -/
  | truncated (bytes : Nat)
  deriving DecidableEq, Repr

/-- The field of `len` bits whose lowest bit is `lo` (R11, R61). -/
def bitsAt (w : Word) (lo len : Nat) : BitVec len := w.extractLsb' lo len

/-- `v` placed in a word with its bit 0 at bit `lo`, zeros elsewhere (R61). -/
def place {n : Nat} (v : BitVec n) (lo : Nat) : Word := v.setWidth 64 <<< lo

/-- A one-bit field as a truth value. -/
def flagAt (w : Word) (i : Nat) : Bool := w.getLsbD i

/-- `.ok i` when every bit of `unused` is zero in `w`, else a rejection (R61, R66). -/
def whenUnusedZero (w unused : Word) (i : Instr) : Except DecodeError Instr :=
  if w &&& unused = 0 then .ok i else .error (.unusedFieldNotZero (bitsAt w 0 4))

/-- The bits a word with no operand must have zero: all above the opcode. -/
def unusedNoOperand : Word := 0xFFFFFFFFFFFFFFF0#64

/-- The bits a word with a 32-bit operand in 63:32 must have zero. -/
def unusedTick : Word := 0x00000000FFFFFFF0#64

/-- The bits a FIRE must have zero: RSV0, 31:17 and 63:32. -/
def unusedFire : Word := 0xFFFFFFFFFFFE00F0#64

/-- The bits a BUF_PUSH must have zero: all but the opcode and bit 16. -/
def unusedPush : Word := 0xFFFFFFFFFFFEFFF0#64

/-- The bits a BUF_IS_COMPLETE must have zero: all but the opcode and 21:16. -/
def unusedIsComplete : Word := 0xFFFFFFFFFFC0FFF0#64

/-- Decode one 64-bit word by the opcode map of R65 and the field tables of R61 to R63. -/
def decodeWord (w : Word) : Except DecodeError Instr :=
  match bitsAt w 0 4 with
  | 0x1#4 => whenUnusedZero w unusedNoOperand .start
  | 0x2#4 => whenUnusedZero w unusedNoOperand .stop
  | 0x3#4 => whenUnusedZero w unusedTick (.edge (bitsAt w 32 32))
  | 0x4#4 => whenUnusedZero w unusedFire (.fire (bitsAt w 8 8) (flagAt w 16))
  | 0x5#4 => whenUnusedZero w unusedNoOperand .diag
  | 0x6#4 => whenUnusedZero w unusedTick (.schSchedule (bitsAt w 32 32))
  | 0x7#4 => whenUnusedZero w unusedNoOperand .trkReset
  | 0x8#4 => whenUnusedZero w unusedTick (.trkClassify (bitsAt w 32 32))
  | 0x9#4 => whenUnusedZero w unusedNoOperand .bufReset
  | 0xA#4 => whenUnusedZero w unusedPush (.bufPush (flagAt w 16))
  | 0xB#4 => whenUnusedZero w unusedIsComplete (.bufIsComplete (bitsAt w 16 6))
  | 0xC#4 => whenUnusedZero w unusedNoOperand .bufExtract
  | 0xD#4 => whenUnusedZero w unusedTick (.parFold (bitsAt w 32 32))
  | 0xE#4 => whenUnusedZero w unusedNoOperand .frmDecode
  | op => .error (.reservedOpcode op)

/-- The opcode of each instruction (R65, first column). -/
def Instr.opcode : Instr → BitVec 4
  | .start => 0x1#4
  | .stop => 0x2#4
  | .edge _ => 0x3#4
  | .fire _ _ => 0x4#4
  | .diag => 0x5#4
  | .schSchedule _ => 0x6#4
  | .trkReset => 0x7#4
  | .trkClassify _ => 0x8#4
  | .bufReset => 0x9#4
  | .bufPush _ => 0xA#4
  | .bufIsComplete _ => 0xB#4
  | .bufExtract => 0xC#4
  | .parFold _ => 0xD#4
  | .frmDecode => 0xE#4

/-- The operand fields of each instruction at their places (R62, R63); all other bits are 0. -/
def Instr.operandBits : Instr → Word
  | .start | .stop | .diag | .trkReset | .bufReset | .bufExtract | .frmDecode => 0
  | .edge t0 | .schSchedule t0 | .trkClassify t0 => place t0 32
  | .fire tag level => place (BitVec.ofBool level) 16 ||| place tag 8
  | .bufPush bit => place (BitVec.ofBool bit) 16
  | .bufIsComplete minLen => place minLen 16
  | .parFold x => place x 32

/-- The word of an instruction. -/
def encode (i : Instr) : Word := i.operandBits ||| place i.opcode 0

/-- The eight bytes of a word, least significant first: byte `k` holds bits `8k+7 : 8k` (R52). -/
def wordBytes (w : Word) : List Byte :=
  [bitsAt w 0 8, bitsAt w 8 8, bitsAt w 16 8, bitsAt w 24 8, bitsAt w 32 8, bitsAt w 40 8, bitsAt w 48 8, bitsAt w 56 8]

/-- The word eight bytes make, least significant first (R52). -/
def wordOfBytes (b0 b1 b2 b3 b4 b5 b6 b7 : Byte) : Word :=
  place b0 0 ||| place b1 8 ||| place b2 16 ||| place b3 24 ||| place b4 32 ||| place b5 40 ||| place b6 48 ||| place b7 56

/-- The two bytes of a TIMER_REQ word, least significant first (R52, R72). -/
def timerWordBytes (w : TimerWord) : List Byte := [w.extractLsb' 0 8, w.extractLsb' 8 8]

/-- The TIMER_REQ word two bytes make, least significant first (R52, R72). -/
def timerWordOfBytes (b0 b1 : Byte) : TimerWord := (b1.setWidth 16 <<< 8) ||| b0.setWidth 16

/-- Decode the first instruction of a byte sequence and return the bytes after it (R52, R60: one length, eight bytes). -/
def decodeBytes : List Byte → Except DecodeError (Instr × List Byte)
  | b0 :: b1 :: b2 :: b3 :: b4 :: b5 :: b6 :: b7 :: rest =>
    match decodeWord (wordOfBytes b0 b1 b2 b3 b4 b5 b6 b7) with
    | .ok i => .ok (i, rest)
    | .error e => .error e
  | bytes => .error (.truncated bytes.length)

/-- The bytes of an instruction. -/
def encodeBytes (i : Instr) : List Byte := wordBytes (encode i)

/-- The word whose low `nbits` bits are `w`, every bit above them 0. -/
def tableWord (nbits w : Nat) : Word := BitVec.ofNat 64 (w % 2 ^ nbits)

/-- The instruction the decoder reads from the bits `w` of a row of `spec/opcode_table.json`. -/
def decodeTableWord (nbits w : Nat) : Option Instr :=
  match decodeBytes (wordBytes (tableWord nbits w)) with
  | .ok (i, _) => some i
  | .error _ => none

end Sys2Proof
end

