-- ==== Sys2Proof/Machine/State.lean ====
section
/-! DEFINITION. The block's state (`10_state.md` R20), its ports and buses, the results of micro-operations
(`30_encoding.md` R76), the reasons a step can stop, and the state after reset (R38, R270). -/

namespace Sys2Proof.Machine

/-- The reason of an `INVALID` classification and of a TICK_ERROR event (R74). -/
inductive TickReason where
  /-- A calibration edge that matched and was added to the history. -/
  | calibrating
  /-- A calibration edge that failed the history check; the history was cleared. -/
  | calMismatch
  /-- A locked edge with delta at most `CELL - J`; the history is unchanged. -/
  | early
  /-- A locked edge that matched no window; the history was cleared. -/
  | lost
  deriving DecidableEq, Repr

/-- The kind of a BEACON_ERROR event (R75). -/
inductive BeaconKind where
  | incomplete
  | parityDate
  | parityHour
  | parityMinute
  deriving DecidableEq, Repr

/-- The result of TRK_CLASSIFY: `TICK(n)`, `n` whole cells since the reference (R109), or `INVALID(reason)` (R14). -/
inductive Classification where
  | tick (n : Nat)
  | invalid (reason : TickReason)
  deriving DecidableEq, Repr

/-- A decoded timestamp: five exact unsigned values (R156, R160). -/
structure Timestamp where
  year : Nat
  month : Nat
  day : Nat
  hour : Nat
  minute : Nat
  deriving DecidableEq, Repr

/-- The result of BUF_EXTRACT: `OK(frame)` or `ERR(INCOMPLETE)` (R14, R135). -/
inductive Extracted where
  | ok (frame : Frame)
  | incomplete
  deriving DecidableEq, Repr

/-- The result of FRM_DECODE: `OK(timestamp)` or `ERR(kind)` (R14, R154). -/
inductive Decoded where
  | ok (ts : Timestamp)
  | err (kind : BeaconKind)
  deriving DecidableEq, Repr

/-- A value on the Controller's internal result bus (R76). -/
inductive UopResult where
  /-- Of TRK_CLASSIFY. -/
  | classified (c : Classification)
  /-- Of BUF_IS_COMPLETE and PAR_FOLD. -/
  | bit (b : Bool)
  /-- Of BUF_EXTRACT. -/
  | extracted (e : Extracted)
  /-- Of FRM_DECODE. -/
  | decoded (d : Decoded)
  deriving DecidableEq, Repr

/-- What one of the output ports presents (R69): an EVENT word (R70), a TIMER_REQ word (R72), or the four words of a
DIAG_OUT record (R73). -/
inductive Output where
  | event (w : Word)
  | timerReq (w : TimerWord)
  | diagOut (w0 w1 w2 w3 : Word)
  deriving DecidableEq, Repr

/-- What the outside offers the block, each consumed by one step. DESIGN CHOICE, assumption log 1, 3 and 9. -/
inductive Input where
  /-- A word on the command port (R200), with the value of `NOW_MS` during its step (R8, R67). -/
  | command (w : Word) (now : Tick)
  /-- A single micro-operation issued on the Controller's internal bus, as the unit test vectors of
  `95_test_vectors.md` do; never from the command port (R60, R66). -/
  | microOp (w : Word) (now : Tick)
  /-- The reset input, asserted and released (R270). -/
  | reset
  deriving DecidableEq, Repr

/-- The Controller's three registers: `RUN`, `RX_ENABLE`, `EDGE_NOTIFY_EN` (R20, R21, R24, R25). -/
structure Control where
  run : Bool
  rxEnable : Bool
  edgeNotifyEn : Bool
  deriving DecidableEq, Repr

/-- The Cadence Tracker's registers: `HIST_LEN` and `HIST[0..2]`, most recent first (R26, R27). -/
structure Tracker where
  len : BitVec 2
  h0 : Tick
  h1 : Tick
  h2 : Tick
  deriving DecidableEq, Repr

/-- The Bit Buffer's registers: `BUF_CNT` and `BUF_BITS` (R29, R30). -/
structure Buffer where
  cnt : Count
  bits : Frame
  deriving DecidableEq, Repr

/-- The Sample Scheduler's registers: `SCHED_BUSY` and `SCHED_TAG` (R32, R33). -/
structure Scheduler where
  busy : Bool
  tag : Tag
  deriving DecidableEq, Repr

/-- The whole state. The first four fields are the registers of R20, one structure for each unit; the others are the
block's ports and internal buses, and the model's own counter of free values. -/
structure State where
  /-- `RUN`, `RX_ENABLE`, `EDGE_NOTIFY_EN`. -/
  control : Control
  /-- `HIST_LEN`, `HIST[0..2]`. -/
  tracker : Tracker
  /-- `BUF_CNT`, `BUF_BITS`. -/
  buffer : Buffer
  /-- `SCHED_BUSY`, `SCHED_TAG`. -/
  sched : Scheduler
  /-- The `NOW_MS` input during the present step (R8, R35). -/
  nowMs : Tick
  /-- What the outside has offered and the block has not taken, in the order the arbiter takes it (R56). -/
  pending : List Input
  /-- What the output ports have presented, oldest first (R69); no rule reads it. -/
  outputs : List Output
  /-- The frame bus; `none` when nothing drives it (R63, R135). -/
  frameBus : Option Frame
  /-- The result bus; `none` when it carries no result (R76). -/
  resultBus : Option UopResult
  /-- The model's own: how many free values have been used (assumption log 4). -/
  freeCount : Nat
  deriving DecidableEq, Repr

/-- The block never faults: it has no trap, exception vector or handler, and every error is an event (R243, R245). The
type has no constructor, so no step can end in one (safe: nothing is hidden by it). -/
inductive Fault where
  deriving DecidableEq, Repr

/-- Why a step gives no meaning to its input (R66). Each is safe: the spec says to refuse the word. -/
inductive Refusal where
  /-- An instruction of the table with no meaning in this model: none. Safe: it stops. -/
  | notModelled (mnemonic : String)
  /-- Raised by a step whose word spells no instruction: reserved opcode or non-zero unused field (R66). Safe: the
  spec gives it no step, no state change and no output. -/
  | spellsNoInstruction (e : DecodeError)
  /-- Raised by a step that finds a UOP word on the command port (R66). Safe: as above. -/
  | microOpOnCommandPort
  /-- Raised by a step that finds a CMD word where a micro-operation is issued: with `OP` outside 0x6 to 0xE it is
  not a micro-operation (R66). Safe: as above. -/
  | commandAsMicroOp
  deriving DecidableEq, Repr

/-- The registers after reset: every one 0 (R38). -/
def Control.afterReset : Control := ⟨false, false, false⟩

/-- `HIST_LEN = 0`, `HIST = [0, 0, 0]` (R38). -/
def Tracker.afterReset : Tracker := ⟨0, 0, 0, 0⟩

/-- `BUF_CNT = 0`, `BUF_BITS = 0` (R38). -/
def Buffer.afterReset : Buffer := ⟨0, 0⟩

/-- `SCHED_BUSY = 0`, `SCHED_TAG = 0` (R38). -/
def Scheduler.afterReset : Scheduler := ⟨false, 0⟩

/-- The machine right after reset: every register 0 (R38), nothing emitted and nothing requested (R270), nothing
offered. `nowMs`, `frameBus`, `resultBus` and `freeCount` are no registers of the spec: DESIGN CHOICE, assumption log 10. -/
def State.reset : State where
  control := Control.afterReset
  tracker := Tracker.afterReset
  buffer := Buffer.afterReset
  sched := Scheduler.afterReset
  nowMs := 0
  pending := []
  outputs := []
  frameBus := none
  resultBus := none
  freeCount := 0

end Sys2Proof.Machine
end

