-- ==== Sys2Proof/Machine/Operands.lean ====
section
/-! DEFINITION. The primitives operands go through: the tick difference and the tolerance test (R100, R101), the parity
fold (R150), bit fields and digit groups of a frame (R11, R152, R156), and a write of one buffer bit (R131). -/

namespace Sys2Proof.Machine

/-- `tdiff(a, b)`: the wrap-safe signed difference of two timestamps (R100). -/
def tdiff (a b : Tick) : Int :=
  if 2 ^ 31 ≤ (a - b).toNat then ((a - b).toNat : Int) - 2 ^ 32 else ((a - b).toNat : Int)

/-- `within(d, c) := abs(d - c) < J`, strict (R101). -/
def within (d : Int) (c : Nat) : Bool := decide ((d - c).natAbs < Config.jitter)

/-- One halving of the fold: `x xor (x >> k)`, the shift logical (R150). -/
def xorHalf (x : BitVec 32) (k : Nat) : BitVec 32 := x ^^^ (x >>> k)

/-- `fold(x)`: bit 0 after the five halvings (R150). -/
def fold (x : BitVec 32) : Bool := (xorHalf (xorHalf (xorHalf (xorHalf (xorHalf x 16) 8) 4) 2) 1).getLsbD 0

/-- `frame[hi:lo]` as an unsigned number, bit `lo` of weight 1 (R11, R157). -/
def group (f : Frame) (hi lo : Nat) : Nat := (f.extractLsb' lo (hi - lo + 1)).toNat

/-- `fold(zext_32(frame[hi:lo]))`, the parity of a span with its own parity bit (R152). -/
def spanParity (f : Frame) (hi lo : Nat) : Bool := fold ((f.extractLsb' lo (hi - lo + 1)).setWidth 32)

/-- `v` with its bit `i` written to `b` (R131). -/
def writeBit (v : Frame) (i : Nat) (b : Bool) : Frame :=
  (v &&& ~~~(1#59 <<< i)) ||| ((BitVec.ofBool b).setWidth 59 <<< i)

/-- The delay of a sample request: `SAMPLE_OFFSET - e`, `e` the elapsed time clamped to `0 .. SAMPLE_OFFSET` (R181). -/
def sampleDelay (now t0 : Tick) : Nat :=
  Config.sampleOffset - (min (max (tdiff now t0) 0) Config.sampleOffset).toNat

end Sys2Proof.Machine
end

