-- ==== Sys2Proof/Machine/Flags.lean ====
section
/-! DEFINITION. The block has no flags (R23). This file holds its derived status conditions (R22, R23, R108, R184) and the
words of its outputs with their codes (R70 to R75). -/

namespace Sys2Proof.Machine

/-- The derived "locked" condition, `HIST_LEN = HIST_DEPTH` (R23). -/
def Tracker.locked (tr : Tracker) : Bool := decide (Config.histDepth ≤ tr.len.toNat)

/-- The Controller's four named states (R22). -/
inductive Phase where
  | idle
  | armed
  | calibrating
  | accumulating
  deriving DecidableEq, Repr

/-- The Controller state derived from `RUN` and `HIST_LEN` (R22). -/
def State.phase (s : State) : Phase :=
  if !s.control.run then .idle
  else if s.tracker.len = 0 then .armed
  else if s.tracker.locked then .accumulating
  else .calibrating

/-- `boundary(TICK(n))`: a minute boundary (R108). -/
def boundary (n : Nat) : Bool := decide (Config.syncMin ≤ n)

/-- `accept(tag)`, the check every FIRE makes (R184). -/
def State.accepts (s : State) (tag : Tag) : Bool := s.control.run && s.sched.busy && (tag == s.sched.tag)

/-- Tick-error reason codes (R74). -/
def TickReason.code : TickReason → BitVec 4
  | .calibrating => 0
  | .calMismatch => 1
  | .early => 2
  | .lost => 3

/-- Beacon-error kind codes (R75). -/
def BeaconKind.code : BeaconKind → BitVec 4
  | .incomplete => 0
  | .parityDate => 1
  | .parityHour => 2
  | .parityMinute => 3

/-- `EVENT` word of TICK: KIND 0x1, the sampled bit in bit 8 (R70). -/
def tickWord (bit : Bool) : Word := place (BitVec.ofBool bit) 8 ||| place 0x1#4 0

/-- `EVENT` word of SYNC: KIND 0x2 and the timestamp fields (R70, R71). -/
def syncWord (ts : Timestamp) : Word :=
  place (BitVec.ofNat 12 ts.year) 48 ||| place (BitVec.ofNat 5 ts.month) 40 ||| place (BitVec.ofNat 6 ts.day) 32
    ||| place (BitVec.ofNat 6 ts.hour) 24 ||| place (BitVec.ofNat 7 ts.minute) 16 ||| place 0x2#4 0

/-- `EVENT` word of TICK_ERROR: KIND 0x3, the reason code in 11:8 (R70). -/
def tickErrorWord (r : TickReason) : Word := place r.code 8 ||| place 0x3#4 0

/-- `EVENT` word of BEACON_ERROR: KIND 0x4, the kind code in 11:8 (R70). -/
def beaconErrorWord (k : BeaconKind) : Word := place k.code 8 ||| place 0x4#4 0

/-- `TIMER_REQ` word: DELAY in 7:0, TAG in 15:8 (R72). -/
def timerWord (delay : Nat) (tag : Tag) : TimerWord := (tag.setWidth 16 <<< 8) ||| (BitVec.ofNat 8 delay).setWidth 16

/-- DIAG_OUT word 0: `RUN`, `RX_ENABLE`, `EDGE_NOTIFY_EN`, `SCHED_BUSY`, `HIST_LEN`, `SCHED_TAG`, `BUF_CNT` (R73). -/
def State.diagWord0 (s : State) : Word :=
  place s.buffer.cnt 16 ||| place s.sched.tag 8 ||| place s.tracker.len 4 ||| place (BitVec.ofBool s.sched.busy) 3
    ||| place (BitVec.ofBool s.control.edgeNotifyEn) 2 ||| place (BitVec.ofBool s.control.rxEnable) 1
    ||| place (BitVec.ofBool s.control.run) 0

/-- The DIAG_OUT record of a state (R73). -/
def State.diagRecord (s : State) : Output :=
  .diagOut s.diagWord0 (place s.buffer.bits 0) (place s.tracker.h1 32 ||| place s.tracker.h0 0) (place s.tracker.h2 0)

end Sys2Proof.Machine
end

