-- ==== Sys2Proof/Machine/Ops.lean ====
section
/-! DEFINITION. The named operations over the registers, shared by the commands and the micro-operations: each unit's
operations on its own registers, and the state's updates and outputs. The block has no traps (R245, R246): an error is
an event an operation emits, so there is no exception entry or return to model. -/

namespace Sys2Proof.Machine

/-- TRK_RESET: the cleared history (R102). -/
def Tracker.cleared : Tracker := ⟨0, 0, 0, 0⟩

/-- The valid entries, most recent first (R27). -/
def Tracker.valid (tr : Tracker) : List Tick := [tr.h0, tr.h1, tr.h2].take tr.len.toNat

/-- `t` prepended, the oldest entry dropped, with the given length (R104, R107). -/
def Tracker.prepend (tr : Tracker) (t : Tick) (len : BitVec 2) : Tracker := ⟨len, t, tr.h0, tr.h1⟩

/-- Every retained entry from index `i` on is within tolerance of `(i + 1) * CELL` before `t` (R104). -/
def cadenceMatches (t : Tick) : Nat → List Tick → Bool
  | _, [] => true
  | i, h :: hs => within (tdiff t h) ((i + 1) * Config.cell) && cadenceMatches t (i + 1) hs

/-- CALIBRATE: the path of a tracker that is not locked (R104). -/
def Tracker.calibrate (tr : Tracker) (t : Tick) : Tracker × Classification :=
  if cadenceMatches t 0 tr.valid then (tr.prepend t (tr.len + 1), .invalid .calibrating)
  else (Tracker.cleared, .invalid .calMismatch)

/-- The first window `k` in `1 .. MAX_TICKS`, in increasing order, that holds the delta `d` (R105). -/
def windowOf (d : Int) : Option Nat := (List.range' 1 Config.maxTicks).find? fun k => within d (k * Config.cell)

/-- LOCKED: the path of a locked tracker (R105, R107). -/
def Tracker.track (tr : Tracker) (t : Tick) : Tracker × Classification :=
  if tdiff t tr.h0 ≤ (Config.cell : Int) - Config.jitter then (tr, .invalid .early)
  else
    match windowOf (tdiff t tr.h0) with
    | some k => (tr.prepend t tr.len, .tick k)
    | none => (Tracker.cleared, .invalid .lost)

/-- TRK_CLASSIFY (R103). -/
def Tracker.classify (tr : Tracker) (t : Tick) : Tracker × Classification :=
  if tr.locked then tr.track t else tr.calibrate t

/-- BUF_RESET: the empty buffer (R130). -/
def Buffer.empty : Buffer := ⟨0, 0⟩

/-- BUF_PUSH: keep the bit while fewer than `FRAME_LEN` are held; the count saturates (R131). -/
def Buffer.push (b : Buffer) (bit : Bool) : Buffer where
  cnt := BitVec.ofNat 6 (min (b.cnt.toNat + 1) Config.cntMax)
  bits := if b.cnt.toNat < Config.frameLen then writeBit b.bits b.cnt.toNat bit else b.bits

/-- BUF_IS_COMPLETE: at least `m` bits have been pushed (R132). -/
def Buffer.isComplete (b : Buffer) (m : Nat) : Bool := decide (m ≤ b.cnt.toNat)

/-- BUF_EXTRACT: the frame, when complete (R134, R135, R136). -/
def Buffer.extract (b : Buffer) : Extracted :=
  if b.isComplete Config.frameLen then .ok b.bits else .incomplete

/-- The five fields of a frame, exact integer arithmetic, no range check (R154, R156, R158). -/
def timestampOf (f : Frame) : Timestamp where
  minute := group f 24 21 + 10 * group f 27 25
  hour := group f 32 29 + 10 * group f 34 33
  day := group f 39 36 + 10 * group f 41 40
  month := group f 48 45 + 10 * group f 49 49
  year := Config.yearBase + group f 53 50 + 10 * group f 57 54

/-- FRM_DECODE: the spans checked date, hour, minute, then the fields (R152, R153, R154). -/
def decodeFrame (f : Frame) : Decoded :=
  if spanParity f 58 36 then .err .parityDate
  else if spanParity f 35 29 then .err .parityHour
  else if spanParity f 28 21 then .err .parityMinute
  else .ok (timestampOf f)

/-- `s` with one more output presented (R69). -/
def State.present (s : State) (o : Output) : State := { s with outputs := s.outputs ++ [o] }

/-- `emit`: one EVENT word appended to the event output (R13, R70). -/
def State.emit (s : State) (w : Word) : State := s.present (.event w)

/-- `s` with the tracker's registers `tr`. -/
def State.withTracker (s : State) (tr : Tracker) : State := { s with tracker := tr }

/-- `s` with the buffer's registers `b`. -/
def State.withBuffer (s : State) (b : Buffer) : State := { s with buffer := b }

/-- `s` with the scheduler's registers `sc`. -/
def State.withSched (s : State) (sc : Scheduler) : State := { s with sched := sc }

/-- `s` with `RUN`, `RX_ENABLE` and `EDGE_NOTIFY_EN` all written to `on` (R25, R201, R202). -/
def State.withControl (s : State) (on : Bool) : State := { s with control := ⟨on, on, on⟩ }

/-- `s` with the result bus carrying `r`, or no result (R76). -/
def State.withResult (s : State) (r : Option UopResult) : State := { s with resultBus := r }

/-- `s` with the frame bus driven to `f`, or not driven (R135). -/
def State.withFrameBus (s : State) (f : Option Frame) : State := { s with frameBus := f }

/-- `s` with one more free value used (assumption log 4). -/
def State.useFreeValue (s : State) : State := { s with freeCount := s.freeCount + 1 }

/-- SCH_SCHEDULE: a new tag, busy, and one timer request with that tag (R181 to R183). -/
def State.schedule (s : State) (t0 : Tick) : State :=
  (s.withSched ⟨true, s.sched.tag + 1⟩).present (.timerReq (timerWord (sampleDelay s.nowMs t0) (s.sched.tag + 1)))

/-- SAMPLE: push the level and emit TICK (R185). -/
def State.sample (s : State) (level : Bool) : State := (s.withBuffer (s.buffer.push level)).emit (tickWord level)

/-- The event a minute boundary reports for the buffer as it stands (R207, R250). -/
def frameReport (b : Buffer) : Word :=
  match b.extract with
  | .incomplete => beaconErrorWord .incomplete
  | .ok f =>
    match decodeFrame f with
    | .ok ts => syncWord ts
    | .err k => beaconErrorWord k

/-- The frame that just ended: report it and reset the buffer regardless (R207, R242). -/
def State.closeFrame (s : State) : State := (s.emit (frameReport s.buffer)).withBuffer Buffer.empty

/-- What FRM_DECODE reads: the frame on the bus, or the free value when nothing drives it (assumption log 4). -/
def State.busFrame (s : State) : Frame :=
  match s.frameBus with
  | some f => f
  | none => Config.undrivenFrame s.freeCount

/-- The state after FRM_DECODE has read the bus: a read of an undriven bus uses one free value. -/
def State.afterBusRead (s : State) : State :=
  match s.frameBus with
  | some _ => s
  | none => s.useFreeValue

end Sys2Proof.Machine
end

