-- ==== Sys2Proof/Machine/Buffer.lean ====
section
/-! DEFINITION. The Bit Buffer's micro-operations (`41_bit_buffer.md`). -/

namespace Sys2Proof.Machine

/-- BUF_RESET (R130). No result. -/
def execBufReset (s : State) : Host.Outcome State Fault Refusal :=
  .next ((s.withBuffer Buffer.empty).withResult none)

/-- BUF_PUSH bit (R131). No result. -/
def execBufPush (bit : Bool) (s : State) : Host.Outcome State Fault Refusal :=
  .next ((s.withBuffer (s.buffer.push bit)).withResult none)

/-- BUF_IS_COMPLETE min_len (R132). -/
def execBufIsComplete (minLen : Count) (s : State) : Host.Outcome State Fault Refusal :=
  .next (s.withResult (some (.bit (s.buffer.isComplete minLen.toNat))))

/-- The frame bus after BUF_EXTRACT: driven by a success and by nothing else (R135, assumption log 4). -/
def Extracted.bus : Extracted → Option Frame
  | .ok f => some f
  | .incomplete => none

/-- BUF_EXTRACT (R135). -/
def execBufExtract (s : State) : Host.Outcome State Fault Refusal :=
  .next ((s.withFrameBus s.buffer.extract.bus).withResult (some (.extracted s.buffer.extract)))

end Sys2Proof.Machine
end

