-- ==== Sys2Proof/Machine/Controller.lean ====
section
/-! DEFINITION. The Controller's five commands (`44_controller.md`). A command uses the units' operations inside its one
step and leaves nothing on the internal buses (R20, R35). -/

namespace Sys2Proof.Machine

/-- START (R201): every register but `SCHED_TAG` is written. -/
def execStart (s : State) : Host.Outcome State Fault Refusal :=
  .next ((((s.withBuffer Buffer.empty).withTracker Tracker.cleared).withSched ⟨false, s.sched.tag⟩).withControl true)

/-- STOP (R202): the buffer and the history are kept. -/
def execStop (s : State) : Host.Outcome State Fault Refusal :=
  .next ((s.withSched ⟨false, s.sched.tag⟩).withControl false)

/-- What an EDGE does after its classification (R205 to R207); `s` has the tracker's new registers. -/
def State.afterClassify (s : State) (t0 : Tick) : Classification → State
  | .invalid reason => s.emit (tickErrorWord reason)
  | .tick n => (if boundary n then s.closeFrame else s).schedule t0

/-- EDGE t0 (R203); ignored while `RUN = 0` (R204). -/
def execEdge (t0 : Tick) (s : State) : Host.Outcome State Fault Refusal :=
  .next (if s.control.run then
      (s.withTracker (s.tracker.classify t0).1).afterClassify t0 (s.tracker.classify t0).2
    else s)

/-- FIRE tag, level (R208); discarded when it is not accepted (R187). -/
def execFire (tag : Tag) (level : Bool) (s : State) : Host.Outcome State Fault Refusal :=
  .next (if s.accepts tag then (s.withSched ⟨false, s.sched.tag⟩).sample level else s)

/-- DIAG (R209). -/
def execDiag (s : State) : Host.Outcome State Fault Refusal :=
  .next (s.present s.diagRecord)

end Sys2Proof.Machine
end

