-- ==== Sys2Proof/Machine/FrameDecoder.lean ====
section
/-! DEFINITION. The parity validator's and the Frame Decoder's micro-operations (`42_frame_decoder.md`). -/

namespace Sys2Proof.Machine

/-- PAR_FOLD x (R151). -/
def execParFold (x : BitVec 32) (s : State) : Host.Outcome State Fault Refusal :=
  .next (s.withResult (some (.bit (fold x))))

/-- FRM_DECODE (R154): decode the frame on the frame bus. -/
def execFrmDecode (s : State) : Host.Outcome State Fault Refusal :=
  .next (s.afterBusRead.withResult (some (.decoded (decodeFrame s.busFrame))))

end Sys2Proof.Machine
end

