-- ==== Sys2Proof/Machine/Scheduler.lean ====
section
/-! DEFINITION. The Sample Scheduler's micro-operation (`43_sample_scheduler.md`). -/

namespace Sys2Proof.Machine

/-- SCH_SCHEDULE t0 (R181). No result. -/
def execSchSchedule (t0 : Tick) (s : State) : Host.Outcome State Fault Refusal :=
  .next ((s.schedule t0).withResult none)

end Sys2Proof.Machine
end

