-- ==== Sys2Proof/Machine/Tracker.lean ====
section
/-! DEFINITION. The Cadence Tracker's micro-operations (`40_cadence_tracker.md`). -/

namespace Sys2Proof.Machine

/-- TRK_RESET (R102). No result. -/
def execTrkReset (s : State) : Host.Outcome State Fault Refusal :=
  .next ((s.withTracker Tracker.cleared).withResult none)

/-- TRK_CLASSIFY t0 (R103 to R107). -/
def execTrkClassify (t0 : Tick) (s : State) : Host.Outcome State Fault Refusal :=
  .next ((s.withTracker (s.tracker.classify t0).1).withResult (some (.classified (s.tracker.classify t0).2)))

end Sys2Proof.Machine
end

