-- ==== Sys2Proof/Machine/Dispatch.lean ====
section
/-! DEFINITION. One arm per instruction: each a direct call of its meaning. -/

namespace Sys2Proof.Machine

def exec (i : Instr) (s : State) : Host.Outcome State Fault Refusal :=
  match i with
  | .start => Sys2Proof.Machine.execStart s
  | .stop => Sys2Proof.Machine.execStop s
  | .edge t0 => Sys2Proof.Machine.execEdge t0 s
  | .fire tag level => Sys2Proof.Machine.execFire tag level s
  | .diag => Sys2Proof.Machine.execDiag s
  | .schSchedule t0 => Sys2Proof.Machine.execSchSchedule t0 s
  | .trkReset => Sys2Proof.Machine.execTrkReset s
  | .trkClassify t0 => Sys2Proof.Machine.execTrkClassify t0 s
  | .bufReset => Sys2Proof.Machine.execBufReset s
  | .bufPush bit => Sys2Proof.Machine.execBufPush bit s
  | .bufIsComplete minLen => Sys2Proof.Machine.execBufIsComplete minLen s
  | .bufExtract => Sys2Proof.Machine.execBufExtract s
  | .parFold x => Sys2Proof.Machine.execParFold x s
  | .frmDecode => Sys2Proof.Machine.execFrmDecode s

end Sys2Proof.Machine
end

