-- ==== Sys2Proof/Machine/Ports.lean ====
section
/-! DEFINITION. How a step takes its input: what the command port and the micro-operation bus accept (R66, R200), what
taking an input does to the ports, the reset input (R270), the bytes of an output (R52), and the expansion of SECOND
(R68). `Step.lean` only calls these. -/

namespace Sys2Proof.Machine

/-- The command a word on the command port spells, or the reason it is refused (R66). -/
def acceptCommand (w : Word) : Except Refusal Instr :=
  match decodeWord w with
  | .error e => .error (.spellsNoInstruction e)
  | .ok i => if i.wellFormedCommand then .ok i else .error .microOpOnCommandPort

/-- The micro-operation a word spells, or the reason it is none (R66, its last sentences). -/
def acceptMicroOp (w : Word) : Except Refusal Instr :=
  match decodeWord w with
  | .error e => .error (.spellsNoInstruction e)
  | .ok i => if i.wellFormedMicroOp then .ok i else .error .commandAsMicroOp

/-- A command step begins: its word leaves the port, `NOW_MS` has its value of this step, and the internal buses carry
nothing from before (R20, R35). -/
def State.beginCommand (s : State) (now : Tick) (rest : List Input) : State :=
  { s with pending := rest, nowMs := now, frameBus := none, resultBus := none }

/-- A micro-operation is issued by itself: the buses keep what the micro-operations before it left there
(assumption log 3 and 4). -/
def State.beginMicroOp (s : State) (now : Tick) (rest : List Input) : State :=
  { s with pending := rest, nowMs := now }

/-- The reset input is asserted and released: every register takes its value of R38 and the buses carry nothing; nothing
is emitted or requested (R270). What the outside holds (what it has offered, what it was given) is not the block's. -/
def State.applyReset (s : State) (rest : List Input) : State :=
  { s with
    control := Control.afterReset
    tracker := Tracker.afterReset
    buffer := Buffer.afterReset
    sched := Scheduler.afterReset
    pending := rest
    frameBus := none
    resultBus := none }

/-- With nothing offered the block waits (R271; assumption log 7). -/
def State.wait (s : State) : State := s

/-- The input that offers the word `w` where it belongs: a UOP opcode (0x6 to 0xE) as a micro-operation, every other
word on the command port (assumption log 3). -/
def offerWord (w : Word) (now : Tick) : Input :=
  if 0x6 ≤ (bitsAt w 0 4).toNat ∧ (bitsAt w 0 4).toNat ≤ 0xE then .microOp w now else .command w now

/-- The input an assembler line stands for (R67): `NOW_MS = t0` for an EDGE line without the annotation, and for a
SCH_SCHEDULE line likewise; 0 where no rule reads it. -/
def lineInput? (l : AsmLine) : Option Input :=
  match l, l.instr? with
  | .edge t0 now, some i => some (offerWord (encode i) (BitVec.ofNat 32 (now.getD t0)))
  | .uopSchSchedule t0, some i => some (offerWord (encode i) (BitVec.ofNat 32 t0))
  | _, some i => some (offerWord (encode i) 0)
  | _, none => none

/-- The bytes of an output's words over a byte-wide channel (R52); the words of a DIAG_OUT record in the order of R73. -/
def Output.bytes : Output → List Byte
  | .event w => wordBytes w
  | .timerReq w => timerWordBytes w
  | .diagOut w0 w1 w2 w3 => wordBytes w0 ++ wordBytes w1 ++ wordBytes w2 ++ wordBytes w3

/-- The tags of the timer requests among some outputs (R72). -/
def requestTags : List Output → List Tag
  | [] => []
  | .timerReq w :: os => w.extractLsb' 8 8 :: requestTags os
  | _ :: os => requestTags os

/-- `SECOND t0, level` at the state its EDGE is taken in, given what that EDGE step presents (R68): the EDGE, and a FIRE
with the tag of the request it presented, if it presented one. -/
def secondInputs (t0 : Tick) (level : Bool) (presented : List Output) : List Input :=
  .command (encode (.edge t0)) t0 :: (requestTags presented).map fun g => .command (encode (.fire g level)) t0

end Sys2Proof.Machine
end

