-- ==== Sys2Proof/Machine/Step.lean ====
section
/-! DEFINITION. One step: take the next input and perform it as one indivisible action (R54, R200). -/

namespace Sys2Proof.Machine

/-- One step of the block. -/
def step (s : State) : Host.Outcome State Fault Refusal :=
  match s.pending with
  | [] => .next s.wait
  | .reset :: rest => .next (s.applyReset rest)
  | .command w now :: rest =>
    match acceptCommand w with
    | .ok i => exec i (s.beginCommand now rest)
    | .error r => .refused r
  | .microOp w now :: rest =>
    match acceptMicroOp w with
    | .ok i => exec i (s.beginMicroOp now rest)
    | .error r => .refused r

/-- `s` with the word `w` of `nbits` bits offered where the next step takes its input, ahead of all else that is offered
(assumption log 13). -/
def State.withFetchWord (s : State) (nbits w : Nat) : State :=
  { s with pending := offerWord (tableWord nbits w) s.nowMs :: s.pending }

end Sys2Proof.Machine
end

