-- ==== Sys2Proof/Safety.lean ====
section
/-! DEFINITION. The terms the claims are stated in: readings of the state and of output words that do not go through the
machine's own operations, the invariants, and runs. -/

namespace Sys2Proof.Machine

/-- `HIST[i]` (R12). -/
def Tracker.entry (tr : Tracker) : Nat → Tick
  | 0 => tr.h0
  | 1 => tr.h1
  | _ => tr.h2

/-- A row of `spec/opcode_table.json`: its format, and its match and mask, under which a word is the row's. -/
structure OpcodeRow where
  format : Format
  bits : Word
  mask : Word
  deriving DecidableEq, Repr

/-- `spec/opcode_table.json`, its 14 rows in its order. -/
def opcodeRows : List OpcodeRow := [
  ⟨.cmd, 0x0000000000000001, 0xFFFFFFFFFFFFFFFF⟩,
  ⟨.cmd, 0x0000000000000002, 0xFFFFFFFFFFFFFFFF⟩,
  ⟨.cmd, 0x0000000000000003, 0x00000000FFFFFFFF⟩,
  ⟨.cmd, 0x0000000000000004, 0xFFFFFFFFFFFE00FF⟩,
  ⟨.cmd, 0x0000000000000005, 0xFFFFFFFFFFFFFFFF⟩,
  ⟨.uop, 0x0000000000000006, 0x00000000FFFFFFFF⟩,
  ⟨.uop, 0x0000000000000007, 0xFFFFFFFFFFFFFFFF⟩,
  ⟨.uop, 0x0000000000000008, 0x00000000FFFFFFFF⟩,
  ⟨.uop, 0x0000000000000009, 0xFFFFFFFFFFFFFFFF⟩,
  ⟨.uop, 0x000000000000000A, 0xFFFFFFFFFFFEFFFF⟩,
  ⟨.uop, 0x000000000000000B, 0xFFFFFFFFFFC0FFFF⟩,
  ⟨.uop, 0x000000000000000C, 0xFFFFFFFFFFFFFFFF⟩,
  ⟨.uop, 0x000000000000000D, 0x00000000FFFFFFFF⟩,
  ⟨.uop, 0x000000000000000E, 0xFFFFFFFFFFFFFFFF⟩]

/-- Some row of the given format has the word `w`. -/
def inTable (fmt : Format) (w : Word) : Prop := ∃ r ∈ opcodeRows, r.format = fmt ∧ w &&& r.mask = r.bits

/-- The number of one-bits of a value. -/
def popcount {n : Nat} (x : BitVec n) : Nat := (List.range n).countP fun i => x.getLsbD i

/-- The number of one-bits of a frame at the indices `lo .. hi`. -/
def onesIn (f : Frame) (hi lo : Nat) : Nat := (List.range' lo (hi + 1 - lo)).countP fun i => f.getLsbD i

/-- `frame[hi:lo]` by division: the digit group whose bit `lo` has weight 1 (R157). -/
def digits (f : Frame) (hi lo : Nat) : Nat := f.toNat / 2 ^ lo % 2 ^ (hi + 1 - lo)

/-- The source's accumulator after pushing `bits`: reset to the sentinel 1, then `2 * acc + bit` (R31). -/
def accumulator (bits : List Bool) : Nat := bits.foldl (fun acc b => 2 * acc + b.toNat) 1

/-- The buffer after pushing `bits` into an empty one. -/
def pushAll (bits : List Bool) : Buffer := bits.foldl Buffer.push Buffer.empty

/-- A number placed in a frame, `width` bits from index `lo` on. -/
def atIndex (v width lo : Nat) : Frame := (BitVec.ofNat width v).setWidth 59 <<< lo

/-- The data bits of a frame for a date and time: BCD digits in the layout of R155, weekday bits 42 to 44 and bits 0 to
20 as given, every parity bit 0. -/
def dataFrame (ts : Timestamp) (low : BitVec 21) (weekday : BitVec 3) : Frame :=
  low.setWidth 59 ||| atIndex (ts.minute % 10) 4 21 ||| atIndex (ts.minute / 10) 3 25
    ||| atIndex (ts.hour % 10) 4 29 ||| atIndex (ts.hour / 10) 2 33
    ||| atIndex (ts.day % 10) 4 36 ||| atIndex (ts.day / 10) 2 40 ||| (weekday.setWidth 59 <<< 42)
    ||| atIndex (ts.month % 10) 4 45 ||| atIndex (ts.month / 10) 1 49
    ||| atIndex ((ts.year - 2000) % 10) 4 50 ||| atIndex ((ts.year - 2000) / 10) 4 54

/-- A transmitted frame: the data bits with the three even-parity bits 28, 35 and 58 (R152). -/
def broadcastFrame (ts : Timestamp) (low : BitVec 21) (weekday : BitVec 3) : Frame :=
  let d := dataFrame ts low weekday
  d ||| atIndex (onesIn d 27 21 % 2) 1 28 ||| atIndex (onesIn d 34 29 % 2) 1 35 ||| atIndex (onesIn d 57 36 % 2) 1 58

/-- The EVENT words among some outputs, in order (R69, R70). -/
def events (os : List Output) : List Word := os.filterMap fun | .event w => some w | _ => none

/-- The TIMER_REQ words among some outputs, in order (R69, R72). -/
def timerRequests (os : List Output) : List TimerWord := os.filterMap fun | .timerReq w => some w | _ => none

/-- `KIND` of an EVENT word (R70). -/
def kindOf (w : Word) : Nat := (bitsAt w 0 4).toNat

/-- The code field 11:8 of an EVENT word (R70). -/
def codeOf (w : Word) : Nat := (bitsAt w 8 4).toNat

/-- An EVENT word within R70, R71, R74 and R75: a KIND that is emitted, no bit set outside the kind's fields, a code that
is produced, and timestamp fields the decoder can produce. -/
def legalEvent (w : Word) : Prop :=
  (kindOf w = 1 ∧ w &&& ~~~0x000000000000010F#64 = 0) ∨
  (kindOf w = 2 ∧ w &&& ~~~0x0FFF1F3F3F7F000F#64 = 0 ∧ (bitsAt w 16 7).toNat ≤ 85 ∧ (bitsAt w 24 6).toNat ≤ 45
    ∧ (bitsAt w 32 6).toNat ≤ 45 ∧ (bitsAt w 40 5).toNat ≤ 25 ∧ 2000 ≤ (bitsAt w 48 12).toNat
    ∧ (bitsAt w 48 12).toNat ≤ 2165) ∨
  (kindOf w = 3 ∧ w &&& ~~~0x0000000000000F0F#64 = 0 ∧ codeOf w ≤ 3) ∨
  (kindOf w = 4 ∧ w &&& ~~~0x0000000000000F0F#64 = 0 ∧ codeOf w ≤ 3)

/-- An output within R70 to R73. -/
def legalOutput : Output → Prop
  | .event w => legalEvent w
  | .timerReq w => (w.extractLsb' 0 8).toNat ≤ 150
  | .diagOut w0 w1 _ w3 => bitsAt w0 6 2 = 0 ∧ bitsAt w0 22 42 = 0 ∧ bitsAt w1 59 5 = 0 ∧ bitsAt w3 32 32 = 0

/-- Every output presented so far is legal. -/
def State.outputsLegal (s : State) : Prop := ∀ o ∈ s.outputs, legalOutput o

/-- The registers of R20 agree. -/
def State.sameRegisters (s t : State) : Prop :=
  s.control = t.control ∧ s.tracker = t.tracker ∧ s.buffer = t.buffer ∧ s.sched = t.sched

/-- R25: after every step `EDGE_NOTIFY_EN = RUN` and `RX_ENABLE = RUN`. -/
def Control.agrees (c : Control) : Prop := c.edgeNotifyEn = c.run ∧ c.rxEnable = c.run

/-- R27: entries at or above `HIST_LEN` hold 0. -/
def Tracker.zeroAbove (tr : Tracker) : Prop := ∀ i, tr.len.toNat ≤ i → i < 3 → tr.entry i = 0

/-- R28: while calibrating, every two valid entries are the right number of cells apart. -/
def Tracker.cadenced (tr : Tracker) : Prop :=
  tr.len.toNat < 3 → ∀ i j, i < j → j < tr.len.toNat →
    (tdiff (tr.entry i) (tr.entry j) - ((j - i : Nat) : Int) * 1000).natAbs < 50

/-- R30: bits at or above `min(BUF_CNT, 59)` are 0. -/
def Buffer.zeroAbove (b : Buffer) : Prop := ∀ i, min b.cnt.toNat 59 ≤ i → b.bits.getLsbD i = false

/-- The invariant of the registers: R25, R27, R28 and R30. -/
structure State.Inv (s : State) : Prop where
  control : s.control.agrees
  history : s.tracker.zeroAbove
  cadence : s.tracker.cadenced
  buffer : s.buffer.zeroAbove

/-- The input is a word on the command port or the reset input, not a micro-operation issued by itself. -/
def Input.fromOutside : Input → Prop
  | .command _ _ => True
  | .microOp _ _ => False
  | .reset => True

/-- The input neither issues a micro-operation by itself nor is the command START. -/
def Input.startsNothing : Input → Prop
  | .command w _ => decodeWord w ≠ .ok .start
  | .microOp _ _ => False
  | .reset => True

/-- `t` follows from `s` by some number of steps. -/
inductive Reaches : State → State → Prop where
  | refl (s : State) : Reaches s s
  | step {s t u : State} : Machine.step s = .next t → Reaches t u → Reaches s u

/-- The state after performing some instructions one after another; `none` where one does not complete. -/
def execAll : List Instr → State → Option State
  | [], s => some s
  | i :: is, s =>
    match exec i s with
    | .next t => execAll is t
    | _ => none

/-- One second after another, 1000 ms apart from `t0` on: the EDGE, and the FIRE that answers its request with the
second's level; `tag` is `SCHED_TAG` before the first (R68, R212). -/
def seconds (t0 : Tick) (tag : Tag) : List Bool → List Input
  | [] => []
  | b :: bs =>
    .command (encode (.edge t0)) t0 :: .command (encode (.fire (tag + 1) b)) t0 :: seconds (t0 + 1000) (tag + 1) bs

end Sys2Proof.Machine
end

