-- ==== Sys2Proof/Certificates/Slice0/Obligations.lean ====
section
/-! DEFINITION. The statements for the provers, family by family. Each docstring names the rule of `spec/` it formalises;
where a clause rests on a choice of the model, it names the assumption log's entry. -/

open Sys2Proof Sys2Proof.Machine

/-! ### Encoding and steps -/

/-- Words written out from R62 and R63 decode to what they stand for, and the bytes of one of them, least significant
first (R52), do too. -/
def Obligations.SpecWordsDecode : Prop :=
  decodeWord 0x0000000000000001 = .ok .start ∧
  decodeWord 0x0000000000000002 = .ok .stop ∧
  decodeWord 0x0000271000000003 = .ok (.edge 10000) ∧
  decodeWord 0x0000000000010504 = .ok (.fire 5 true) ∧
  decodeWord 0x0000000000000005 = .ok .diag ∧
  decodeWord 0x000032c800000006 = .ok (.schSchedule 13000) ∧
  decodeWord 0x00002ee000000008 = .ok (.trkClassify 12000) ∧
  decodeWord 0x000000000001000a = .ok (.bufPush true) ∧
  decodeWord 0x00000000003b000b = .ok (.bufIsComplete 59) ∧
  decodeWord 0x123456780000000d = .ok (.parFold 0x12345678) ∧
  decodeBytes [0x04, 0x05, 0x01, 0, 0, 0, 0, 0] = .ok (.fire 5 true, [])

/-- The decoder reads back every instruction with every operand, from its word and from its bytes. -/
def Obligations.DecodeInvertsEncode : Prop :=
  ∀ i : Instr, decodeWord (encode i) = .ok i ∧ ∀ rest, decodeBytes (encodeBytes i ++ rest) = .ok (i, rest)

/-- A word that decodes is the word of what it decodes to: no bit of it is dropped. -/
def Obligations.EncodeInvertsDecode : Prop :=
  ∀ (w : Word) (i : Instr), decodeWord w = .ok i → encode i = w

/-- The decoder accepts exactly the words of the opcode table's rows, each in the row's format. -/
def Obligations.DecoderAcceptsExactlyTheTable : Prop :=
  ∀ (fmt : Format) (w : Word), (∃ i, decodeWord w = .ok i ∧ i.format = fmt) ↔ inTable fmt w

/-- R66: which words the command port refuses, and which words are no micro-operation. -/
def Obligations.IllegalWordsAreRefused : Prop :=
  ∀ (s : State) (w : Word) (now : Tick) (rest : List Input),
    (s.pending = .command w now :: rest →
      ((∃ r, step s = .refused r) ↔
        ((bitsAt w 0 4).toNat = 0x0 ∨ (bitsAt w 0 4).toNat = 0xF) ∨
        (0x6 ≤ (bitsAt w 0 4).toNat ∧ (bitsAt w 0 4).toNat ≤ 0xE) ∨
        ((bitsAt w 0 4).toNat = 0x3 ∧ bitsAt w 4 28 ≠ 0) ∨
        ((bitsAt w 0 4).toNat = 0x4 ∧ (bitsAt w 4 4 ≠ 0 ∨ bitsAt w 17 15 ≠ 0 ∨ bitsAt w 32 32 ≠ 0)) ∨
        (((bitsAt w 0 4).toNat = 0x1 ∨ (bitsAt w 0 4).toNat = 0x2 ∨ (bitsAt w 0 4).toNat = 0x5) ∧ bitsAt w 4 60 ≠ 0))) ∧
    (s.pending = .microOp w now :: rest →
      ((∃ r, step s = .refused r) ↔ ¬ inTable .uop w))

/-- A step performs the instruction its word decodes to. The command port takes one word (R200); a step takes it off the
port with the `NOW_MS` of the step and with nothing on the buses. A micro-operation issued by itself is the model's own
(assumption log 3). -/
def Obligations.StepPerformsTheDecodedWord : Prop :=
  ∀ (s : State) (w : Word) (now : Tick) (rest : List Input) (i : Instr), decodeWord w = .ok i →
    (s.pending = .command w now :: rest → i.format = .cmd →
      step s = exec i { s with pending := rest, nowMs := now, frameBus := none, resultBus := none }) ∧
    (s.pending = .microOp w now :: rest → i.format = .uop →
      step s = exec i { s with pending := rest, nowMs := now })

/-- A word placed for the next step is what the next step performs (assumption log 13), for every instruction. -/
def Obligations.PlacedWordIsPerformedNext : Prop :=
  ∀ (s : State) (i : Instr),
    step (s.withFetchWord 64 (encode i).toNat) =
      exec i (if i.format = .cmd then { s with frameBus := none, resultBus := none } else s)

/-- R52: on a byte-wide channel byte `k` of a word holds its bits `8k+7 : 8k`, and the bytes give the word back: eight bytes
for a command or event word, two for a timer word. -/
def Obligations.BytesAreLeastSignificantFirst : Prop :=
  (∀ w : Word, (∀ k (h : k < (wordBytes w).length), (wordBytes w)[k] = w.extractLsb' (8 * k) 8) ∧
    (wordBytes w).length = 8 ∧
    ∀ b0 b1 b2 b3 b4 b5 b6 b7, wordBytes w = [b0, b1, b2, b3, b4, b5, b6, b7] →
      wordOfBytes b0 b1 b2 b3 b4 b5 b6 b7 = w) ∧
  ∀ w : TimerWord,
    (∀ k (h : k < (timerWordBytes w).length), (timerWordBytes w)[k] = w.extractLsb' (8 * k) 8) ∧
    (timerWordBytes w).length = 2 ∧
    ∀ b0 b1, timerWordBytes w = [b0, b1] → timerWordOfBytes b0 b1 = w

/-- R67, line by line: a line whose operands are in the range of its comment spells the instruction of its mnemonic with the
operands as written, and a line with an operand out of range spells none. A SECOND line spells no one instruction (R68). An
EDGE line's `NOW_MS` is its annotation, else `t0`. -/
def Obligations.AssemblerLinesSpellInstructions : Prop :=
  AsmLine.start.instr? = some .start ∧ AsmLine.stop.instr? = some .stop ∧ AsmLine.diag.instr? = some .diag ∧
  AsmLine.uopTrkReset.instr? = some .trkReset ∧ AsmLine.uopBufReset.instr? = some .bufReset ∧
  AsmLine.uopBufExtract.instr? = some .bufExtract ∧ AsmLine.uopFrmDecode.instr? = some .frmDecode ∧
  (∀ t0 : Nat,
    (t0 < 4294967296 → ∃ v : Tick, v.toNat = t0 ∧ (AsmLine.edge t0 none).instr? = some (.edge v) ∧
      lineInput? (.edge t0 none) = some (.command (encode (.edge v)) v) ∧
      (AsmLine.uopSchSchedule t0).instr? = some (.schSchedule v) ∧
      (AsmLine.uopTrkClassify t0).instr? = some (.trkClassify v)) ∧
    (4294967296 ≤ t0 → (AsmLine.edge t0 none).instr? = none ∧ (AsmLine.uopSchSchedule t0).instr? = none ∧
      (AsmLine.uopTrkClassify t0).instr? = none)) ∧
  (∀ t0 now : Nat,
    (t0 < 4294967296 → now < 4294967296 → ∃ v n : Tick, v.toNat = t0 ∧ n.toNat = now ∧
      (AsmLine.edge t0 (some now)).instr? = some (.edge v) ∧
      lineInput? (.edge t0 (some now)) = some (.command (encode (.edge v)) n)) ∧
    (4294967296 ≤ t0 ∨ 4294967296 ≤ now → (AsmLine.edge t0 (some now)).instr? = none)) ∧
  (∀ tag level : Nat,
    (tag < 256 → level < 2 → ∃ g : Tag, g.toNat = tag ∧
      (AsmLine.fire tag level).instr? = some (.fire g (decide (level = 1)))) ∧
    (256 ≤ tag ∨ 2 ≤ level → (AsmLine.fire tag level).instr? = none)) ∧
  (∀ bit : Nat, (bit < 2 → (AsmLine.uopBufPush bit).instr? = some (.bufPush (decide (bit = 1)))) ∧
    (2 ≤ bit → (AsmLine.uopBufPush bit).instr? = none)) ∧
  (∀ m : Nat,
    (m < 64 → ∃ c : Count, c.toNat = m ∧ (AsmLine.uopBufIsComplete m).instr? = some (.bufIsComplete c)) ∧
    (64 ≤ m → (AsmLine.uopBufIsComplete m).instr? = none)) ∧
  (∀ x : Nat,
    (x < 4294967296 → ∃ v : BitVec 32, v.toNat = x ∧ (AsmLine.uopParFold x).instr? = some (.parFold v)) ∧
    (4294967296 ≤ x → (AsmLine.uopParFold x).instr? = none)) ∧
  ∀ t0 level : Nat, (AsmLine.second t0 level).instr? = none

/-- R68: SECOND expands to the EDGE, followed by a FIRE with the request's tag exactly when the EDGE step presented a
timer request. The `NOW_MS` beside each word is the model's (assumption log 17). -/
def Obligations.SecondExpandsByTheRequest : Prop :=
  ∀ (s t : State) (t0 : Tick) (level : Bool) (new : List Output), exec (.edge t0) s = .next t →
    t.outputs = s.outputs ++ new →
    secondInputs t0 level new = .command (encode (.edge t0)) t0 ::
      (match timerRequests new with
        | [] => []
        | req :: _ => [.command (encode (.fire (req.extractLsb' 8 8) level)) t0])

/-! ### Reset and waiting -/

/-- R38: the registers after reset, at `State.reset` and after the reset input; nothing is emitted or requested, and no
command is taken (R270). That the reset input is one input taken by one step, which keeps the words presented before and the
inputs offered behind it, is the model's choice (assumption log 9). -/
def Obligations.ResetRegisterValues : Prop :=
  (State.reset.control = ⟨false, false, false⟩ ∧ State.reset.tracker = ⟨0, 0, 0, 0⟩ ∧ State.reset.buffer = ⟨0, 0⟩ ∧
    State.reset.sched = ⟨false, 0⟩ ∧ State.reset.outputs = []) ∧
  ∀ (s : State) (rest : List Input), s.pending = .reset :: rest →
    ∃ t, step s = .next t ∧ t.control = ⟨false, false, false⟩ ∧ t.tracker = ⟨0, 0, 0, 0⟩ ∧ t.buffer = ⟨0, 0⟩ ∧
      t.sched = ⟨false, 0⟩ ∧ t.outputs = s.outputs ∧ t.pending = rest

/-- R271: with the registers of reset EDGE and FIRE are ignored, STOP and DIAG leave them, START changes them; with
nothing offered the block waits, which is a step that changes nothing (assumption log 7). -/
def Obligations.AfterResetTheBlockWaits : Prop :=
  (∀ s : State, s.pending = [] → step s = .next s) ∧
  ∀ s : State, s.sameRegisters State.reset →
    (∀ t0, exec (.edge t0) s = .next s) ∧ (∀ tag level, exec (.fire tag level) s = .next s) ∧
    exec .stop s = .next s ∧ (∃ t, exec .diag s = .next t ∧ t.sameRegisters s) ∧
    (∃ t, exec .start s = .next t ∧ ¬ t.sameRegisters s)

/-- R272: reset then START, and STOP then START, leave the same buffer, tracker and busy bit, and differ only in the tag. -/
def Obligations.ResetAndStopRestartAlike : Prop :=
  ∀ (s : State) (rest : List Input), s.pending = .reset :: rest →
    ∃ r a p b, step s = .next r ∧ exec .start r = .next a ∧ exec .stop s = .next p ∧ exec .start p = .next b ∧
      a.buffer = b.buffer ∧ a.tracker = b.tracker ∧ a.control = b.control ∧ a.sched.busy = b.sched.busy ∧
      a.sched.tag = 0 ∧ b.sched.tag = s.sched.tag

/-! ### The Controller's commands -/

/-- R201: START, its word, all it writes and all it leaves; a FIRE before the next request is discarded. -/
def Obligations.StartRestartsEveryUnit : Prop :=
  encode .start = 0x0000000000000001 ∧ ∀ s : State, ∃ t, exec .start s = .next t ∧
    t = { s with
      control := ⟨true, true, true⟩, tracker := ⟨0, 0, 0, 0⟩, buffer := ⟨0, 0⟩, sched := ⟨false, s.sched.tag⟩ } ∧
    t.phase = .armed ∧ ∀ tag level, exec (.fire tag level) t = .next t

/-- R202: STOP, its word, all it writes and all it leaves; a second STOP, and any EDGE or FIRE after it, changes nothing. -/
def Obligations.StopKeepsBufferAndHistory : Prop :=
  encode .stop = 0x0000000000000002 ∧ ∀ s : State, ∃ t, exec .stop s = .next t ∧
    t = { s with control := ⟨false, false, false⟩, sched := ⟨false, s.sched.tag⟩ } ∧
    t.phase = .idle ∧ exec .stop t = .next t ∧ (∀ t0, exec (.edge t0) t = .next t) ∧
    ∀ tag level, exec (.fire tag level) t = .next t

/-- R204: an EDGE while Idle changes no register and emits nothing. -/
def Obligations.EdgeWhileIdleIsIgnored : Prop :=
  ∀ (s : State) (t0 : Tick), s.control.run = false → exec (.edge t0) s = .next s

/-- R205: an EDGE classified INVALID emits its TICK_ERROR and does nothing else; every calibration edge is one. -/
def Obligations.InvalidEdgeOnlyReports : Prop :=
  (∀ (s : State) (t0 : Tick) (r : TickReason), s.control.run = true → (s.tracker.classify t0).2 = .invalid r →
    exec (.edge t0) s = .next { s with
      tracker := (s.tracker.classify t0).1
      outputs := s.outputs ++ [.event (match r with
        | .calibrating => 0x003 | .calMismatch => 0x103 | .early => 0x203 | .lost => 0x303)] }) ∧
  ∀ (tr : Tracker) (t0 : Tick), tr.len.toNat < 3 → ∃ r, (tr.classify t0).2 = .invalid r

/-- R206: an EDGE classified TICK(1) schedules one sample and emits no event; the FIRE of that request then pushes the
bit and emits TICK. -/
def Obligations.OrdinaryTickSchedulesItsSample : Prop :=
  ∀ (s : State) (t0 : Tick), s.control.run = true → (s.tracker.classify t0).2 = .tick 1 →
    ∃ t req, exec (.edge t0) s = .next t ∧
      t = { s with
        tracker := (s.tracker.classify t0).1, sched := ⟨true, s.sched.tag + 1⟩, outputs := s.outputs ++ [.timerReq req] } ∧
      req.extractLsb' 8 8 = s.sched.tag + 1 ∧
      ((req.extractLsb' 0 8).toNat : Int) = 150 - min (max (tdiff s.nowMs t0) 0) 150 ∧
      ∀ level, exec (.fire (s.sched.tag + 1) level) t = .next { t with
        buffer := s.buffer.push level
        sched := ⟨false, s.sched.tag + 1⟩
        outputs := t.outputs ++ [.event (if level then 0x101 else 0x001)] }

/-- R207: an EDGE classified TICK(2) or TICK(3) reports the frame that just ended, resets the buffer in either case, and
schedules its own sample. The report: INCOMPLETE below 59 bits, else the first span with an odd number of ones in the
order date, hour, minute, else SYNC with the five fields. -/
def Obligations.BoundaryEdgeReportsTheFrame : Prop :=
  ∀ (s : State) (t0 : Tick) (n : Nat), s.control.run = true → (s.tracker.classify t0).2 = .tick n → 2 ≤ n →
    ∃ report req, exec (.edge t0) s = .next { s with
        tracker := (s.tracker.classify t0).1
        buffer := ⟨0, 0⟩
        sched := ⟨true, s.sched.tag + 1⟩
        outputs := s.outputs ++ [.event report, .timerReq req] } ∧
      req.extractLsb' 8 8 = s.sched.tag + 1 ∧
      ((req.extractLsb' 0 8).toNat : Int) = 150 - min (max (tdiff s.nowMs t0) 0) 150 ∧
      if s.buffer.cnt.toNat < 59 then report = 0x004
      else if onesIn s.buffer.bits 58 36 % 2 = 1 then report = 0x104
      else if onesIn s.buffer.bits 35 29 % 2 = 1 then report = 0x204
      else if onesIn s.buffer.bits 28 21 % 2 = 1 then report = 0x304
      else kindOf report = 2 ∧
        (bitsAt report 48 12).toNat = 2000 + digits s.buffer.bits 53 50 + 10 * digits s.buffer.bits 57 54 ∧
        (bitsAt report 40 5).toNat = digits s.buffer.bits 48 45 + 10 * digits s.buffer.bits 49 49 ∧
        (bitsAt report 32 6).toNat = digits s.buffer.bits 39 36 + 10 * digits s.buffer.bits 41 40 ∧
        (bitsAt report 24 6).toNat = digits s.buffer.bits 32 29 + 10 * digits s.buffer.bits 34 33 ∧
        (bitsAt report 16 7).toNat = digits s.buffer.bits 24 21 + 10 * digits s.buffer.bits 27 25

/-- R208, R184 and R185: an accepted FIRE clears busy, pushes its level and emits TICK, and changes nothing else. -/
def Obligations.AcceptedFirePushesItsLevel : Prop :=
  ∀ (s : State) (tag : Tag) (level : Bool), s.control.run = true → s.sched.busy = true → tag = s.sched.tag →
    ∃ b, exec (.fire tag level) s = .next { s with
        buffer := b
        sched := ⟨false, s.sched.tag⟩
        outputs := s.outputs ++ [.event (if level then 0x101 else 0x001)] } ∧
      b.cnt.toNat = min (s.buffer.cnt.toNat + 1) 63 ∧
      ∀ i, i < 59 → b.bits.getLsbD i = if i = s.buffer.cnt.toNat then level else s.buffer.bits.getLsbD i

/-- R187: a FIRE that fails the check of R184 changes no register and emits nothing. -/
def Obligations.OtherFiresAreDiscarded : Prop :=
  ∀ (s : State) (tag : Tag) (level : Bool),
    s.control.run = false ∨ s.sched.busy = false ∨ tag ≠ s.sched.tag → exec (.fire tag level) s = .next s

/-- R209 and R73: DIAG, its word, presents the record, every field at its place and every other bit 0, and changes nothing else. -/
def Obligations.DiagPresentsTheRegisters : Prop :=
  encode .diag = 0x0000000000000005 ∧ ∀ s : State, ∃ w0 w1 w2 w3, exec .diag s = .next { s with outputs := s.outputs ++ [.diagOut w0 w1 w2 w3] } ∧
    w0.getLsbD 0 = s.control.run ∧ w0.getLsbD 1 = s.control.rxEnable ∧ w0.getLsbD 2 = s.control.edgeNotifyEn ∧
    w0.getLsbD 3 = s.sched.busy ∧ bitsAt w0 4 2 = s.tracker.len ∧ bitsAt w0 6 2 = 0 ∧ bitsAt w0 8 8 = s.sched.tag ∧
    bitsAt w0 16 6 = s.buffer.cnt ∧ bitsAt w0 22 42 = 0 ∧
    bitsAt w1 0 59 = s.buffer.bits ∧ bitsAt w1 59 5 = 0 ∧
    bitsAt w2 0 32 = s.tracker.h0 ∧ bitsAt w2 32 32 = s.tracker.h1 ∧
    bitsAt w3 0 32 = s.tracker.h2 ∧ bitsAt w3 32 32 = 0

/-- R211: the Controller's transitions by command and derived state, each with its output: a FIRE's by the acceptance check
of R184, a calibrating EDGE's by whether it fits every retained entry (R104). -/
def Obligations.ControllerTransitionTable : Prop :=
  ∀ (s : State), (∃ t, exec .start s = .next t ∧ t.phase = .armed ∧ t.outputs = s.outputs) ∧
    (∃ t, exec .stop s = .next t ∧ t.phase = .idle ∧ t.outputs = s.outputs) ∧
    (∃ t, exec .diag s = .next t ∧ t.phase = s.phase ∧ ∃ w0 w1 w2 w3, t.outputs = s.outputs ++ [.diagOut w0 w1 w2 w3]) ∧
    (∀ tag level, ∃ t, exec (.fire tag level) s = .next t ∧ t.phase = s.phase ∧
      (s.accepts tag = true ↔ s.phase ≠ .idle ∧ s.sched.busy = true ∧ tag = s.sched.tag) ∧
      (s.accepts tag = true → t.outputs = s.outputs ++ [.event (if level then 0x101 else 0x001)]) ∧
      (s.accepts tag = false → t.outputs = s.outputs)) ∧
    ∀ t0, ∃ t new, exec (.edge t0) s = .next t ∧ t.outputs = s.outputs ++ new ∧
      match s.phase with
      | .idle => t.phase = .idle ∧ new = []
      | .armed => t.phase = .calibrating ∧ new = [.event 0x003]
      | .calibrating =>
        let fits := ∀ i, i < s.tracker.len.toNat → (tdiff t0 (s.tracker.entry i) - ((i : Int) + 1) * 1000).natAbs < 50
        (s.tracker.len = 1 ∨ s.tracker.len = 2) ∧
        (fits → s.tracker.len = 1 → t.phase = .calibrating ∧ new = [.event 0x003]) ∧
        (fits → s.tracker.len = 2 → t.phase = .accumulating ∧ new = [.event 0x003]) ∧
        (¬ fits → t.phase = .armed ∧ new = [.event 0x103])
      | .accumulating =>
        match (s.tracker.classify t0).2 with
        | .invalid .early => t.phase = .accumulating ∧ new = [.event 0x203]
        | .invalid .lost => t.phase = .armed ∧ new = [.event 0x303]
        | .invalid _ => False
        | .tick n => t.phase = .accumulating ∧ ∃ req, (n = 1 ∧ new = [.timerReq req]) ∨
            ((n = 2 ∨ n = 3) ∧ ∃ w, (kindOf w = 2 ∨ kindOf w = 4) ∧ new = [.event w, .timerReq req])

/-! ### The Cadence Tracker -/

/-- R100: `tdiff` is the difference modulo 2^32 in the signed half range. -/
def Obligations.TickDifferenceIsWrapSafe : Prop :=
  ∀ a b : Tick, -2 ^ 31 ≤ tdiff a b ∧ tdiff a b < 2 ^ 31 ∧ (2 : Int) ^ 32 ∣ tdiff a b - ((a.toNat : Int) - b.toNat)

/-- R102: TRK_RESET zeroes the history and writes no other register; it is idempotent. R76 gives it no result; that the
result bus then carries none is the model's choice (assumption log 5). -/
def Obligations.TrackerResetClearsHistory : Prop :=
  encode .trkReset = 0x0000000000000007 ∧ ∀ s : State, ∃ t, exec .trkReset s = .next t ∧ t = { s with tracker := ⟨0, 0, 0, 0⟩, resultBus := none } ∧
    exec .trkReset t = .next t

/-- R104: the calibration path. An edge that is within 50 ms of `(i + 1) * 1000` ms after every retained entry is
prepended, any other clears the history; nothing but the tracker and the result is written. -/
def Obligations.CalibrationAdmitsOnlyTheCadence : Prop :=
  ∀ (s : State) (t : Tick), s.tracker.len.toNat < 3 →
    let fits := ∀ i, i < s.tracker.len.toNat → (tdiff t (s.tracker.entry i) - ((i : Int) + 1) * 1000).natAbs < 50
    (fits → ∃ tr, exec (.trkClassify t) s =
        .next { s with tracker := tr, resultBus := some (.classified (.invalid .calibrating)) } ∧
      tr.len.toNat = s.tracker.len.toNat + 1 ∧ tr.h0 = t ∧ tr.h1 = s.tracker.h0 ∧ tr.h2 = s.tracker.h1) ∧
    (¬ fits → exec (.trkClassify t) s =
      .next { s with tracker := ⟨0, 0, 0, 0⟩, resultBus := some (.classified (.invalid .calMismatch)) })

/-- R106 (with R105 and R107): the locked path partitions every delta. -/
def Obligations.LockedDeltasArePartitioned : Prop :=
  ∀ (s : State) (t : Tick), s.tracker.len = 3 →
    let d := tdiff t s.tracker.h0
    let keeps (c : Classification) := exec (.trkClassify t) s = .next { s with resultBus := some (.classified c) }
    let accepts (k : Nat) := exec (.trkClassify t) s = .next { s with
      tracker := ⟨3, t, s.tracker.h0, s.tracker.h1⟩, resultBus := some (.classified (.tick k)) }
    let clears := exec (.trkClassify t) s = .next { s with
      tracker := ⟨0, 0, 0, 0⟩, resultBus := some (.classified (.invalid .lost)) }
    (d ≤ 950 → keeps (.invalid .early)) ∧ (951 ≤ d → d ≤ 1049 → accepts 1) ∧ (1050 ≤ d → d ≤ 1950 → clears) ∧
    (1951 ≤ d → d ≤ 2049 → accepts 2) ∧ (2050 ≤ d → d ≤ 2950 → clears) ∧ (2951 ≤ d → d ≤ 3049 → accepts 3) ∧
    (3050 ≤ d → clears)

/-- R110: no tick before lock; three edges 1000 ms apart complete calibration, and the fourth edge is the first that is
a tick: TICK(1) at 1000 ms, TICK(2) at 2000 ms, across any wrap of the tick counter. -/
def Obligations.NoTickBeforeLock : Prop :=
  (∀ (tr : Tracker) (t : Tick), tr.len.toNat < 3 → ∀ n, (tr.classify t).2 ≠ .tick n) ∧
  ∀ (tr : Tracker) (t : Tick), tr.len = 0 →
    let locked := (((tr.classify t).1.classify (t + 1000)).1.classify (t + 2000)).1
    locked.len = 3 ∧ (locked.classify (t + 3000)).2 = .tick 1 ∧ (locked.classify (t + 4000)).2 = .tick 2

/-- R111, for the whole machine: only START, TRK_RESET and a LOST edge leave the locked phase, and only a matching edge
at length 2 enters it. -/
def Obligations.OnlyLostOrRestartUnlocks : Prop :=
  ∀ (i : Instr) (s t : State), exec i s = .next t →
    (s.tracker.len = 3 → t.tracker.len ≠ 3 → i = .start ∨ i = .trkReset ∨
      ∃ t0, (i = .edge t0 ∨ i = .trkClassify t0) ∧ (s.tracker.classify t0).2 = .invalid .lost) ∧
    (s.tracker.len ≠ 3 → t.tracker.len = 3 → s.tracker.len = 2 ∧
      ∃ t0, (i = .edge t0 ∨ i = .trkClassify t0) ∧ (s.tracker.classify t0).2 = .invalid .calibrating)

/-- R277: an edge stamped before the reference is EARLY when locked and CAL_MISMATCH when calibrating. -/
def Obligations.BackwardStampsAreNeverTicks : Prop :=
  ∀ (s : State) (t0 : Tick), s.control.run = true → tdiff t0 s.tracker.h0 < 0 →
    (s.tracker.len = 3 → exec (.edge t0) s = .next { s with outputs := s.outputs ++ [.event 0x203] }) ∧
    (s.tracker.len = 1 ∨ s.tracker.len = 2 → exec (.edge t0) s =
      .next { s with tracker := ⟨0, 0, 0, 0⟩, outputs := s.outputs ++ [.event 0x103] })

/-! ### The Bit Buffer -/

/-- R130: BUF_RESET empties the buffer and writes no other register; it is idempotent. R76 gives it no result; that the
result bus then carries none is the model's choice (assumption log 5). -/
def Obligations.BufferResetEmpties : Prop :=
  encode .bufReset = 0x0000000000000009 ∧ ∀ s : State, ∃ t, exec .bufReset s = .next t ∧ t = { s with buffer := ⟨0, 0⟩, resultBus := none } ∧
    exec .bufReset t = .next t

/-- R131: BUF_PUSH writes bit `BUF_CNT` when fewer than 59 are held, and the count saturates at 63. R76 gives it no result;
that the result bus then carries none is the model's choice (assumption log 5). -/
def Obligations.PushWritesOneBit : Prop :=
  ∀ (s : State) (bit : Bool), encode (.bufPush bit) = (if bit then 0x1000A else 0xA) ∧
    ∃ b, exec (.bufPush bit) s = .next { s with buffer := b, resultBus := none } ∧
    b.cnt.toNat = min (s.buffer.cnt.toNat + 1) 63 ∧
    ∀ i, i < 59 → b.bits.getLsbD i = if i = s.buffer.cnt.toNat then bit else s.buffer.bits.getLsbD i

/-- R132: BUF_IS_COMPLETE compares the count, and writes nothing but its result. -/
def Obligations.IsCompleteComparesTheCount : Prop :=
  ∀ (s : State) (m : Count), (encode (.bufIsComplete m)).toNat = m.toNat * 2 ^ 16 + 0xB ∧
    ∃ b, exec (.bufIsComplete m) s = .next { s with resultBus := some (.bit b) } ∧
    (b = true ↔ m.toNat ≤ s.buffer.cnt.toNat) ∧ (m = 0 → b = true)

/-- R134 and R135: BUF_EXTRACT gives the frame, and drives it, when 59 bits have been pushed, else ERR(INCOMPLETE); it
writes no register. -/
def Obligations.ExtractNeedsAFullFrame : Prop :=
  ∀ s : State,
    (59 ≤ s.buffer.cnt.toNat → exec .bufExtract s = .next { s with
      frameBus := some s.buffer.bits, resultBus := some (.extracted (.ok s.buffer.bits)) }) ∧
    (s.buffer.cnt.toNat < 59 → ∃ bus, exec .bufExtract s = .next { s with
      frameBus := bus, resultBus := some (.extracted .incomplete) })

/-- R31 and R133: up to 59 pushes the buffer holds what the source's accumulator holds, and for any number of pushes the
completeness test is the source's magnitude test. -/
def Obligations.BufferRefinesTheAccumulator : Prop :=
  ∀ bits : List Bool,
    (bits.length ≤ 59 →
      accumulator bits = 2 ^ bits.length +
        ∑ i ∈ Finset.range bits.length, (bits.getD i false).toNat * 2 ^ (bits.length - 1 - i) ∧
      (pushAll bits).cnt.toNat = bits.length ∧
      ∀ i, i < bits.length → (pushAll bits).bits.getLsbD i = bits.getD i false) ∧
    ∀ m, m ≤ 63 → ((pushAll bits).isComplete m = true ↔ 2 ^ m ≤ accumulator bits)

/-- R136: after 59 or more pushes extract gives the first 59 pushed bits, first pushed at index 0. -/
def Obligations.ExtractKeepsTheFirstBits : Prop :=
  ∀ bits : List Bool, 59 ≤ bits.length →
    ∃ f, (pushAll bits).extract = .ok f ∧ ∀ i, i < 59 → f.getLsbD i = bits.getD i false

/-- R137: the buffer is written only by BUF_RESET and BUF_PUSH, START, a boundary EDGE, and an accepted FIRE. -/
def Obligations.OnlyFiveInstructionsWriteTheBuffer : Prop :=
  ∀ (i : Instr) (s t : State), exec i s = .next t → t.buffer ≠ s.buffer →
    i = .bufReset ∨ (∃ b, i = .bufPush b) ∨ i = .start ∨
    (∃ t0 n, i = .edge t0 ∧ s.control.run = true ∧ (s.tracker.classify t0).2 = .tick n ∧ 2 ≤ n) ∨
    (∃ level, i = .fire s.sched.tag level ∧ s.control.run = true ∧ s.sched.busy = true)

/-! ### The parity validator and the Frame Decoder -/

/-- R150 and R151: PAR_FOLD gives the number of ones modulo 2, for every operand, and writes nothing else. -/
def Obligations.FoldIsThePopulationParity : Prop :=
  ∀ (s : State) (x : BitVec 32),
    exec (.parFold x) s = .next { s with resultBus := some (.bit (decide (popcount x % 2 = 1))) }

/-- R154 (with R152, R153, R156 to R158): FRM_DECODE of the frame on the bus. -/
def Obligations.FrameDecodeChecksThenReads : Prop :=
  encode .frmDecode = 0x000000000000000E ∧ ∀ (s : State) (f : Frame), s.frameBus = some f →
    exec .frmDecode s = .next { s with resultBus := some (.decoded (
      if onesIn f 58 36 % 2 = 1 then .err .parityDate
      else if onesIn f 35 29 % 2 = 1 then .err .parityHour
      else if onesIn f 28 21 % 2 = 1 then .err .parityMinute
      else .ok {
        year := 2000 + digits f 53 50 + 10 * digits f 57 54
        month := digits f 48 45 + 10 * digits f 49 49
        day := digits f 39 36 + 10 * digits f 41 40
        hour := digits f 32 29 + 10 * digits f 34 33
        minute := digits f 24 21 + 10 * digits f 27 25 })) }

/-- With nothing driving the frame bus FRM_DECODE completes too: it decodes some frame, a free value of the model
(assumption log 4), and one more free value has been used. -/
def Obligations.UndrivenBusStillDecodes : Prop :=
  ∀ s : State, s.frameBus = none → ∃ f, exec .frmDecode s =
    .next { s with freeCount := s.freeCount + 1, resultBus := some (.decoded (decodeFrame f)) }

/-- The source's round-trip property: a frame built from a date and time with BCD digits and even parity bits decodes
back to the same five fields, whatever bits 0 to 20 and the weekday are. -/
def Obligations.BroadcastFramesDecodeBack : Prop :=
  ∀ (ts : Timestamp) (low : BitVec 21) (weekday : BitVec 3),
    2000 ≤ ts.year → ts.year ≤ 2099 → 1 ≤ ts.month → ts.month ≤ 12 → 1 ≤ ts.day → ts.day ≤ 31 → ts.hour ≤ 23 →
    ts.minute ≤ 59 → decodeFrame (broadcastFrame ts low weekday) = .ok ts

/-- The source's parity-negative property: one flipped bit of a span of a valid frame is reported as that span's error,
and no field is decoded. -/
def Obligations.OneFlippedBitNamesItsSpan : Prop :=
  ∀ (f : Frame) (ts : Timestamp), decodeFrame f = .ok ts →
    (∀ i, 36 ≤ i → i ≤ 58 → decodeFrame (f ^^^ (1#59 <<< i)) = .err .parityDate) ∧
    (∀ i, 29 ≤ i → i ≤ 35 → decodeFrame (f ^^^ (1#59 <<< i)) = .err .parityHour) ∧
    (∀ i, 21 ≤ i → i ≤ 28 → decodeFrame (f ^^^ (1#59 <<< i)) = .err .parityMinute)

/-- R159: bits 0 to 20 are neither decoded nor checked, and bits 42 to 44 only enter the date parity: frames that agree on
the other bits from 21 to 58 and have the same date parity decode alike, to the same error or to the same fields. -/
def Obligations.LowBitsDoNotMatter : Prop :=
  (∀ f g : Frame, (∀ i, 21 ≤ i → i ≤ 58 → f.getLsbD i = g.getLsbD i) → decodeFrame f = decodeFrame g) ∧
  ∀ f g : Frame, (∀ i, 21 ≤ i → i ≤ 58 → i < 42 ∨ 44 < i → f.getLsbD i = g.getLsbD i) →
    onesIn f 58 36 % 2 = onesIn g 58 36 % 2 → decodeFrame f = decodeFrame g

/-- R156 and R71: the ranges of the decoded fields, each of which the SYNC word holds whole at its place. -/
def Obligations.SyncWordHoldsEveryTimestamp : Prop :=
  ∀ (f : Frame) (ts : Timestamp), decodeFrame f = .ok ts →
    ts.minute ≤ 85 ∧ ts.hour ≤ 45 ∧ ts.day ≤ 45 ∧ ts.month ≤ 25 ∧ 2000 ≤ ts.year ∧ ts.year ≤ 2165 ∧
    (bitsAt (syncWord ts) 16 7).toNat = ts.minute ∧ (bitsAt (syncWord ts) 24 6).toNat = ts.hour ∧
    (bitsAt (syncWord ts) 32 6).toNat = ts.day ∧ (bitsAt (syncWord ts) 40 5).toNat = ts.month ∧
    (bitsAt (syncWord ts) 48 12).toNat = ts.year ∧ legalEvent (syncWord ts)

/-! ### The Sample Scheduler -/

/-- R181 and R72: SCH_SCHEDULE takes a new tag, sets busy and presents one request with the clamped delay and that tag;
it writes no other register. R76 gives it no result; that the result bus then carries none is the model's choice
(assumption log 5). -/
def Obligations.ScheduleRequestsOneSample : Prop :=
  ∀ (s : State) (t0 : Tick), (encode (.schSchedule t0)).toNat = t0.toNat * 2 ^ 32 + 0x6 ∧
    ∃ w, exec (.schSchedule t0) s = .next { s with
      sched := ⟨true, s.sched.tag + 1⟩, outputs := s.outputs ++ [.timerReq w], resultBus := none } ∧
    w.extractLsb' 8 8 = s.sched.tag + 1 ∧
    ((w.extractLsb' 0 8).toNat : Int) = 150 - min (max (tdiff s.nowMs t0) 0) 150

/-- R188: when the request is made at most 150 ms after the edge, the sample instant is `t0 + 150` whatever the elapsed
time; later requests are for an immediate sample, and a `NOW_MS` before the edge gives the full delay. -/
def Obligations.SampleInstantIsPinnedToTheEdge : Prop :=
  ∀ now t0 : Tick, (0 ≤ tdiff now t0 → tdiff now t0 ≤ 150 → now + BitVec.ofNat 32 (sampleDelay now t0) = t0 + 150) ∧
    (150 < tdiff now t0 → sampleDelay now t0 = 0) ∧ (tdiff now t0 < 0 → sampleDelay now t0 = 150)

/-- R182, over any instructions performed one after another: the requests among them carry the tags after `SCHED_TAG` in
turn and the last of them stays in it, so that of any 256 successive requests no two are the same; a row of
SCH_SCHEDULE makes one request each; START and STOP do not change the tag. -/
def Obligations.RequestTagsAreDistinct : Prop :=
  (∀ (s : State) (is : List Instr), ∃ t new, execAll is s = some t ∧ t.outputs = s.outputs ++ new ∧
      requestTags new = (List.range (requestTags new).length).map (fun j => s.sched.tag + BitVec.ofNat 8 (j + 1)) ∧
      t.sched.tag = s.sched.tag + BitVec.ofNat 8 (requestTags new).length ∧
      (∀ k, (((requestTags new).drop k).take 256).Nodup) ∧
      ∀ stamps : List Tick, is = stamps.map .schSchedule → (requestTags new).length = stamps.length) ∧
  ∀ (i : Instr) (s t : State), i = .start ∨ i = .stop → exec i s = .next t → t.sched.tag = s.sched.tag

/-- R278 and R183: an EDGE that schedules supersedes the outstanding request, whose FIRE is then discarded; an EDGE that
schedules nothing leaves it to be accepted. -/
def Obligations.LateFireMeetsTheSupersedingTag : Prop :=
  ∀ (s t : State) (t0 : Tick) (level : Bool), s.control.run = true → s.sched.busy = true →
    exec (.edge t0) s = .next t →
    (∀ n, (s.tracker.classify t0).2 = .tick n → exec (.fire s.sched.tag level) t = .next t) ∧
    (∀ r, (s.tracker.classify t0).2 = .invalid r → ∃ u, exec (.fire s.sched.tag level) t = .next u ∧
      u.sched.busy = false ∧ u.outputs = t.outputs ++ [.event (if level then 0x101 else 0x001)])

/-! ### The whole machine -/

/-- R243: no error is fatal: every instruction, with every operand, completes in every state. -/
def Obligations.EveryInstructionCompletes : Prop :=
  ∀ (i : Instr) (s : State), ∃ t, exec i s = .next t

/-- R33: only a request writes the tag, and it writes the next one. -/
def Obligations.OnlyRequestsWriteTheTag : Prop :=
  ∀ (i : Instr) (s t : State), exec i s = .next t → t.sched.tag ≠ s.sched.tag →
    t.sched.tag = s.sched.tag + 1 ∧ t.sched.busy = true ∧
    ∃ t0, i = .schSchedule t0 ∨ (i = .edge t0 ∧ s.control.run = true ∧ ∃ n, (s.tracker.classify t0).2 = .tick n)

/-- R244: a step reports at most one event and at most one timer request, only an EDGE reports an error, and none
reports a TICK_ERROR together with a request. -/
def Obligations.OneReportPerStep : Prop :=
  ∀ (i : Instr) (s t : State), exec i s = .next t → ∃ new, t.outputs = s.outputs ++ new ∧
    (events new).length ≤ 1 ∧ (timerRequests new).length ≤ 1 ∧
    (∀ w ∈ events new, kindOf w = 3 → timerRequests new = []) ∧
    ((∃ w ∈ events new, kindOf w = 2 ∨ kindOf w = 3 ∨ kindOf w = 4) → ∃ t0, i = .edge t0)

/-- R20: nothing but the registers persists between steps. An instruction appends the same words, and does the same otherwise,
whatever has been presented before. That the words presented are kept in the state, as one list that no rule reads, is the
model's choice (assumption log 6). -/
def Obligations.OutputsAreNeverReadBack : Prop :=
  ∀ (i : Instr) (s t : State) (before : List Output), exec i s = .next t → ∃ new, t.outputs = s.outputs ++ new ∧
    exec i { s with outputs := before } = .next { t with outputs := before ++ new }

/-- The reset state meets the invariant of the registers (R25, R27, R28, R30), and its outputs are legal. -/
def Obligations.ResetMeetsTheInvariant : Prop := State.reset.Inv ∧ State.reset.outputsLegal

/-- Every step keeps the invariant of the registers: the control bits agree (R25), entries past the length are 0 (R27),
a calibrating history keeps the cadence (R28), bits past the count are 0 (R30). -/
def Obligations.StepKeepsTheInvariant : Prop :=
  ∀ s t : State, s.Inv → step s = .next t → t.Inv

/-- Every step presents only words within R70 to R75: the kinds and codes that are emitted, no stray bit, delays of at
most 150 ms, timestamp fields in the decoder's ranges. -/
def Obligations.StepKeepsOutputsLegal : Prop :=
  ∀ s t : State, s.outputsLegal → step s = .next t → t.outputsLegal

/-- Where inputs come only from outside, a request is outstanding only while the engine runs (R32), and a step leaves
nothing on the internal buses (R20, R35; the buses are assumption log 4 and 5). -/
def Obligations.OutsideInputsLeaveNoResidue : Prop :=
  ∀ (s t : State) (x : Input) (rest : List Input), s.pending = x :: rest → x.fromOutside →
    (s.sched.busy = true → s.control.run = true) → step s = .next t →
    (t.sched.busy = true → t.control.run = true) ∧ t.frameBus = none ∧ t.resultBus = none ∧ t.pending = rest

/-- R257: from a stopped engine, along any run in which no START is taken, no event and no timer request is presented,
and the engine stays stopped. -/
def Obligations.StoppedEngineStaysSilent : Prop :=
  ∀ s t : State, Reaches s t → s.control.run = false → (∀ x ∈ s.pending, x.startsNothing) →
    t.control.run = false ∧ events t.outputs = events s.outputs ∧ timerRequests t.outputs = timerRequests s.outputs

/-- R212 and R210: from a running, locked block with an empty buffer, one edge per second answered by its FIRE, for up to
59 seconds (the first edge 1000 or 2000 ms after the reference: the latter is itself a boundary and reports the empty
buffer), then an edge 2000 ms after the last: the block takes every one of these inputs, and the events are one TICK per
second in order and then the report of the pushed bits: INCOMPLETE below 59, else what the frame decodes to. -/
def Obligations.CleanMinuteReportsItsFrame : Prop :=
  ∀ (s : State) (k : Nat) (bits : List Bool) (f : Frame) (now : Tick) (rest : List Input),
    s.control.run = true → s.tracker.len = 3 → s.buffer = ⟨0, 0⟩ → k = 1 ∨ k = 2 → bits ≠ [] → bits.length ≤ 59 →
    (∀ i, i < 59 → f.getLsbD i = bits.getD i false) →
    s.pending = seconds (s.tracker.h0 + BitVec.ofNat 32 (1000 * k)) s.sched.tag bits ++
      .command (encode (.edge (s.tracker.h0 + BitVec.ofNat 32 (1000 * (k + bits.length + 1))))) now :: rest →
    ∃ t report, Reaches s t ∧ t.pending = rest ∧ t.buffer = ⟨0, 0⟩ ∧ t.tracker.len = 3 ∧ t.sched.busy = true ∧
      events t.outputs = events s.outputs ++ (if k = 2 then [0x004] else []) ++
        bits.map (fun b => if b then 0x101 else 0x001) ++ [report] ∧
      (bits.length < 59 → report = 0x004) ∧
      (bits.length = 59 → match decodeFrame f with
        | .ok ts => report = syncWord ts
        | .err .parityDate => report = 0x104
        | .err .parityHour => report = 0x204
        | .err .parityMinute => report = 0x304
        | .err .incomplete => False)
end

