-- ==== Sys2Proof/Laws/Bits.lean ====
section
/-! SUPPORT. Fields of words: what `bitsAt`, `flagAt` and `place` read and write, and how they pass through `|||` and a mask. -/

namespace Sys2Proof

theorem getLsbD_place {n : Nat} (v : BitVec n) (lo j : Nat) :
    (place v lo).getLsbD j = (decide (j < 64) && decide (lo ≤ j) && v.getLsbD (j - lo)) := by
  simp only [place, BitVec.getLsbD_shiftLeft, BitVec.getLsbD_setWidth]
  by_cases h : j < 64 <;> by_cases h2 : lo ≤ j
  · simp [h, h2, Nat.not_lt.2 h2, (by omega : j - lo < 64)]
  · simp [h, h2, Nat.lt_of_not_le h2]
  · simp [h]
  · simp [h]

theorem getLsbD_bitsAt (w : Word) (lo len j : Nat) :
    (bitsAt w lo len).getLsbD j = (decide (j < len) && w.getLsbD (lo + j)) := by
  simp [bitsAt, BitVec.getLsbD_extractLsb']

theorem bitsAt_place_eq {n : Nat} (v : BitVec n) (lo : Nat) (h : lo + n ≤ 64) : bitsAt (place v lo) lo n = v := by
  apply BitVec.eq_of_getLsbD_eq
  intro i hi
  have h1 : lo + i < 64 := by omega
  have h2 : lo ≤ lo + i := by omega
  have h3 : lo + i - lo = i := by omega
  simp only [getLsbD_bitsAt, getLsbD_place, h1, h2, h3, hi, decide_true, Bool.true_and]

theorem bitsAt_place_disjoint {n : Nat} (v : BitVec n) (lo p len : Nat) (h : lo + n ≤ p ∨ p + len ≤ lo) :
    bitsAt (place v lo) p len = 0 := by
  apply BitVec.eq_of_getLsbD_eq
  intro i hi
  rw [getLsbD_bitsAt, getLsbD_place]
  rcases h with h | h
  · rw [BitVec.getLsbD_of_ge v _ (by omega)]
    simp
  · have : ¬ lo ≤ p + i := by omega
    simp [this]

theorem bitsAt_or (a b : Word) (lo len : Nat) : bitsAt (a ||| b) lo len = bitsAt a lo len ||| bitsAt b lo len := by
  ext j hj
  simp [bitsAt, BitVec.getElem_extractLsb']

theorem flagAt_or (a b : Word) (i : Nat) : flagAt (a ||| b) i = (flagAt a i || flagAt b i) := by
  simp [flagAt]

theorem flagAt_place_ofBool (b : Bool) (i : Nat) (h : i < 64) : flagAt (place (BitVec.ofBool b) i) i = b := by
  rw [flagAt, getLsbD_place]
  simp [h]

theorem flagAt_place_disjoint {n : Nat} (v : BitVec n) (lo i : Nat) (h : lo + n ≤ i ∨ i < lo) :
    flagAt (place v lo) i = false := by
  rw [flagAt, getLsbD_place]
  rcases h with h | h
  · rw [BitVec.getLsbD_of_ge v _ (by omega)]
    simp
  · have : ¬ lo ≤ i := by omega
    simp [this]

theorem or_and_distrib (a b m : Word) : (a ||| b) &&& m = (a &&& m) ||| (b &&& m) := by
  ext i hi
  simp [Bool.and_or_distrib_right]

/-- A field that the mask does not touch masks to 0. -/
theorem place_and_eq_zero {n : Nat} (v : BitVec n) (lo : Nat) (m : Word) (h : bitsAt m lo n = 0) :
    place v lo &&& m = 0 := by
  apply BitVec.eq_of_getLsbD_eq
  intro i hi
  rw [BitVec.getLsbD_and, getLsbD_place]
  by_cases h1 : lo ≤ i
  · by_cases h2 : i - lo < n
    · have h3 := congrArg (fun x => x.getLsbD (i - lo)) h
      simp only [getLsbD_bitsAt, h2, decide_true, Bool.true_and, (by omega : lo + (i - lo) = i), BitVec.ofNat_eq_ofNat,
        BitVec.getLsbD_zero] at h3
      simp [h3]
    · rw [BitVec.getLsbD_of_ge v _ (by omega)]
      simp
  · simp [h1]

end Sys2Proof
end

