-- ==== Sys2Proof/Laws/State.lean ====
section
/-! SUPPORT. One lemma per field per update of the state, so that no proof unfolds a record update; the parameters' values. -/

namespace Sys2Proof

@[simp] theorem Config.jitter_val : Config.jitter = 50 := by simp [Config.jitter]
@[simp] theorem Config.cell_val : Config.cell = 1000 := by simp [Config.cell]
@[simp] theorem Config.histDepth_val : Config.histDepth = 3 := by simp [Config.histDepth]
@[simp] theorem Config.maxTicks_val : Config.maxTicks = 3 := by simp [Config.maxTicks]
@[simp] theorem Config.syncMin_val : Config.syncMin = 2 := by simp [Config.syncMin]
@[simp] theorem Config.sampleOffset_val : Config.sampleOffset = 150 := by simp [Config.sampleOffset]
@[simp] theorem Config.frameLen_val : Config.frameLen = 59 := by simp [Config.frameLen]
@[simp] theorem Config.yearBase_val : Config.yearBase = 2000 := by simp [Config.yearBase]
@[simp] theorem Config.cntMax_val : Config.cntMax = 63 := by simp [Config.cntMax]

end Sys2Proof

namespace Sys2Proof.Machine.State

variable (s : State)

@[simp] theorem present_control (o : Output) : (s.present o).control = s.control := rfl
@[simp] theorem present_tracker (o : Output) : (s.present o).tracker = s.tracker := rfl
@[simp] theorem present_buffer (o : Output) : (s.present o).buffer = s.buffer := rfl
@[simp] theorem present_sched (o : Output) : (s.present o).sched = s.sched := rfl
@[simp] theorem present_nowMs (o : Output) : (s.present o).nowMs = s.nowMs := rfl
@[simp] theorem present_pending (o : Output) : (s.present o).pending = s.pending := rfl
@[simp] theorem present_outputs (o : Output) : (s.present o).outputs = s.outputs ++ [o] := rfl
@[simp] theorem present_frameBus (o : Output) : (s.present o).frameBus = s.frameBus := rfl
@[simp] theorem present_resultBus (o : Output) : (s.present o).resultBus = s.resultBus := rfl
@[simp] theorem present_freeCount (o : Output) : (s.present o).freeCount = s.freeCount := rfl

@[simp] theorem emit_control (w : Word) : (s.emit w).control = s.control := rfl
@[simp] theorem emit_tracker (w : Word) : (s.emit w).tracker = s.tracker := rfl
@[simp] theorem emit_buffer (w : Word) : (s.emit w).buffer = s.buffer := rfl
@[simp] theorem emit_sched (w : Word) : (s.emit w).sched = s.sched := rfl
@[simp] theorem emit_nowMs (w : Word) : (s.emit w).nowMs = s.nowMs := rfl
@[simp] theorem emit_pending (w : Word) : (s.emit w).pending = s.pending := rfl
@[simp] theorem emit_outputs (w : Word) : (s.emit w).outputs = s.outputs ++ [.event w] := rfl
@[simp] theorem emit_frameBus (w : Word) : (s.emit w).frameBus = s.frameBus := rfl
@[simp] theorem emit_resultBus (w : Word) : (s.emit w).resultBus = s.resultBus := rfl
@[simp] theorem emit_freeCount (w : Word) : (s.emit w).freeCount = s.freeCount := rfl

@[simp] theorem withTracker_control (tr : Tracker) : (s.withTracker tr).control = s.control := rfl
@[simp] theorem withTracker_tracker (tr : Tracker) : (s.withTracker tr).tracker = tr := rfl
@[simp] theorem withTracker_buffer (tr : Tracker) : (s.withTracker tr).buffer = s.buffer := rfl
@[simp] theorem withTracker_sched (tr : Tracker) : (s.withTracker tr).sched = s.sched := rfl
@[simp] theorem withTracker_nowMs (tr : Tracker) : (s.withTracker tr).nowMs = s.nowMs := rfl
@[simp] theorem withTracker_pending (tr : Tracker) : (s.withTracker tr).pending = s.pending := rfl
@[simp] theorem withTracker_outputs (tr : Tracker) : (s.withTracker tr).outputs = s.outputs := rfl
@[simp] theorem withTracker_frameBus (tr : Tracker) : (s.withTracker tr).frameBus = s.frameBus := rfl
@[simp] theorem withTracker_resultBus (tr : Tracker) : (s.withTracker tr).resultBus = s.resultBus := rfl
@[simp] theorem withTracker_freeCount (tr : Tracker) : (s.withTracker tr).freeCount = s.freeCount := rfl

@[simp] theorem withBuffer_control (b : Buffer) : (s.withBuffer b).control = s.control := rfl
@[simp] theorem withBuffer_tracker (b : Buffer) : (s.withBuffer b).tracker = s.tracker := rfl
@[simp] theorem withBuffer_buffer (b : Buffer) : (s.withBuffer b).buffer = b := rfl
@[simp] theorem withBuffer_sched (b : Buffer) : (s.withBuffer b).sched = s.sched := rfl
@[simp] theorem withBuffer_nowMs (b : Buffer) : (s.withBuffer b).nowMs = s.nowMs := rfl
@[simp] theorem withBuffer_pending (b : Buffer) : (s.withBuffer b).pending = s.pending := rfl
@[simp] theorem withBuffer_outputs (b : Buffer) : (s.withBuffer b).outputs = s.outputs := rfl
@[simp] theorem withBuffer_frameBus (b : Buffer) : (s.withBuffer b).frameBus = s.frameBus := rfl
@[simp] theorem withBuffer_resultBus (b : Buffer) : (s.withBuffer b).resultBus = s.resultBus := rfl
@[simp] theorem withBuffer_freeCount (b : Buffer) : (s.withBuffer b).freeCount = s.freeCount := rfl

@[simp] theorem withSched_control (sc : Scheduler) : (s.withSched sc).control = s.control := rfl
@[simp] theorem withSched_tracker (sc : Scheduler) : (s.withSched sc).tracker = s.tracker := rfl
@[simp] theorem withSched_buffer (sc : Scheduler) : (s.withSched sc).buffer = s.buffer := rfl
@[simp] theorem withSched_sched (sc : Scheduler) : (s.withSched sc).sched = sc := rfl
@[simp] theorem withSched_nowMs (sc : Scheduler) : (s.withSched sc).nowMs = s.nowMs := rfl
@[simp] theorem withSched_pending (sc : Scheduler) : (s.withSched sc).pending = s.pending := rfl
@[simp] theorem withSched_outputs (sc : Scheduler) : (s.withSched sc).outputs = s.outputs := rfl
@[simp] theorem withSched_frameBus (sc : Scheduler) : (s.withSched sc).frameBus = s.frameBus := rfl
@[simp] theorem withSched_resultBus (sc : Scheduler) : (s.withSched sc).resultBus = s.resultBus := rfl
@[simp] theorem withSched_freeCount (sc : Scheduler) : (s.withSched sc).freeCount = s.freeCount := rfl

@[simp] theorem withControl_control (on : Bool) : (s.withControl on).control = ⟨on, on, on⟩ := rfl
@[simp] theorem withControl_tracker (on : Bool) : (s.withControl on).tracker = s.tracker := rfl
@[simp] theorem withControl_buffer (on : Bool) : (s.withControl on).buffer = s.buffer := rfl
@[simp] theorem withControl_sched (on : Bool) : (s.withControl on).sched = s.sched := rfl
@[simp] theorem withControl_nowMs (on : Bool) : (s.withControl on).nowMs = s.nowMs := rfl
@[simp] theorem withControl_pending (on : Bool) : (s.withControl on).pending = s.pending := rfl
@[simp] theorem withControl_outputs (on : Bool) : (s.withControl on).outputs = s.outputs := rfl
@[simp] theorem withControl_frameBus (on : Bool) : (s.withControl on).frameBus = s.frameBus := rfl
@[simp] theorem withControl_resultBus (on : Bool) : (s.withControl on).resultBus = s.resultBus := rfl
@[simp] theorem withControl_freeCount (on : Bool) : (s.withControl on).freeCount = s.freeCount := rfl

@[simp] theorem withResult_control (r : Option UopResult) : (s.withResult r).control = s.control := rfl
@[simp] theorem withResult_tracker (r : Option UopResult) : (s.withResult r).tracker = s.tracker := rfl
@[simp] theorem withResult_buffer (r : Option UopResult) : (s.withResult r).buffer = s.buffer := rfl
@[simp] theorem withResult_sched (r : Option UopResult) : (s.withResult r).sched = s.sched := rfl
@[simp] theorem withResult_nowMs (r : Option UopResult) : (s.withResult r).nowMs = s.nowMs := rfl
@[simp] theorem withResult_pending (r : Option UopResult) : (s.withResult r).pending = s.pending := rfl
@[simp] theorem withResult_outputs (r : Option UopResult) : (s.withResult r).outputs = s.outputs := rfl
@[simp] theorem withResult_frameBus (r : Option UopResult) : (s.withResult r).frameBus = s.frameBus := rfl
@[simp] theorem withResult_resultBus (r : Option UopResult) : (s.withResult r).resultBus = r := rfl
@[simp] theorem withResult_freeCount (r : Option UopResult) : (s.withResult r).freeCount = s.freeCount := rfl

@[simp] theorem withFrameBus_control (f : Option Frame) : (s.withFrameBus f).control = s.control := rfl
@[simp] theorem withFrameBus_tracker (f : Option Frame) : (s.withFrameBus f).tracker = s.tracker := rfl
@[simp] theorem withFrameBus_buffer (f : Option Frame) : (s.withFrameBus f).buffer = s.buffer := rfl
@[simp] theorem withFrameBus_sched (f : Option Frame) : (s.withFrameBus f).sched = s.sched := rfl
@[simp] theorem withFrameBus_nowMs (f : Option Frame) : (s.withFrameBus f).nowMs = s.nowMs := rfl
@[simp] theorem withFrameBus_pending (f : Option Frame) : (s.withFrameBus f).pending = s.pending := rfl
@[simp] theorem withFrameBus_outputs (f : Option Frame) : (s.withFrameBus f).outputs = s.outputs := rfl
@[simp] theorem withFrameBus_frameBus (f : Option Frame) : (s.withFrameBus f).frameBus = f := rfl
@[simp] theorem withFrameBus_resultBus (f : Option Frame) : (s.withFrameBus f).resultBus = s.resultBus := rfl
@[simp] theorem withFrameBus_freeCount (f : Option Frame) : (s.withFrameBus f).freeCount = s.freeCount := rfl

@[simp] theorem useFreeValue_control : (s.useFreeValue).control = s.control := rfl
@[simp] theorem useFreeValue_tracker : (s.useFreeValue).tracker = s.tracker := rfl
@[simp] theorem useFreeValue_buffer : (s.useFreeValue).buffer = s.buffer := rfl
@[simp] theorem useFreeValue_sched : (s.useFreeValue).sched = s.sched := rfl
@[simp] theorem useFreeValue_nowMs : (s.useFreeValue).nowMs = s.nowMs := rfl
@[simp] theorem useFreeValue_pending : (s.useFreeValue).pending = s.pending := rfl
@[simp] theorem useFreeValue_outputs : (s.useFreeValue).outputs = s.outputs := rfl
@[simp] theorem useFreeValue_frameBus : (s.useFreeValue).frameBus = s.frameBus := rfl
@[simp] theorem useFreeValue_resultBus : (s.useFreeValue).resultBus = s.resultBus := rfl
@[simp] theorem useFreeValue_freeCount : (s.useFreeValue).freeCount = s.freeCount + 1 := rfl

@[simp] theorem beginCommand_control (now : Tick) (rest : List Input) : (s.beginCommand now rest).control = s.control := rfl
@[simp] theorem beginCommand_tracker (now : Tick) (rest : List Input) : (s.beginCommand now rest).tracker = s.tracker := rfl
@[simp] theorem beginCommand_buffer (now : Tick) (rest : List Input) : (s.beginCommand now rest).buffer = s.buffer := rfl
@[simp] theorem beginCommand_sched (now : Tick) (rest : List Input) : (s.beginCommand now rest).sched = s.sched := rfl
@[simp] theorem beginCommand_nowMs (now : Tick) (rest : List Input) : (s.beginCommand now rest).nowMs = now := rfl
@[simp] theorem beginCommand_pending (now : Tick) (rest : List Input) : (s.beginCommand now rest).pending = rest := rfl
@[simp] theorem beginCommand_outputs (now : Tick) (rest : List Input) : (s.beginCommand now rest).outputs = s.outputs := rfl
@[simp] theorem beginCommand_frameBus (now : Tick) (rest : List Input) : (s.beginCommand now rest).frameBus = none := rfl
@[simp] theorem beginCommand_resultBus (now : Tick) (rest : List Input) : (s.beginCommand now rest).resultBus = none := rfl
@[simp] theorem beginCommand_freeCount (now : Tick) (rest : List Input) : (s.beginCommand now rest).freeCount = s.freeCount := rfl

@[simp] theorem beginMicroOp_control (now : Tick) (rest : List Input) : (s.beginMicroOp now rest).control = s.control := rfl
@[simp] theorem beginMicroOp_tracker (now : Tick) (rest : List Input) : (s.beginMicroOp now rest).tracker = s.tracker := rfl
@[simp] theorem beginMicroOp_buffer (now : Tick) (rest : List Input) : (s.beginMicroOp now rest).buffer = s.buffer := rfl
@[simp] theorem beginMicroOp_sched (now : Tick) (rest : List Input) : (s.beginMicroOp now rest).sched = s.sched := rfl
@[simp] theorem beginMicroOp_nowMs (now : Tick) (rest : List Input) : (s.beginMicroOp now rest).nowMs = now := rfl
@[simp] theorem beginMicroOp_pending (now : Tick) (rest : List Input) : (s.beginMicroOp now rest).pending = rest := rfl
@[simp] theorem beginMicroOp_outputs (now : Tick) (rest : List Input) : (s.beginMicroOp now rest).outputs = s.outputs := rfl
@[simp] theorem beginMicroOp_frameBus (now : Tick) (rest : List Input) : (s.beginMicroOp now rest).frameBus = s.frameBus := rfl
@[simp] theorem beginMicroOp_resultBus (now : Tick) (rest : List Input) : (s.beginMicroOp now rest).resultBus = s.resultBus := rfl
@[simp] theorem beginMicroOp_freeCount (now : Tick) (rest : List Input) : (s.beginMicroOp now rest).freeCount = s.freeCount := rfl

@[simp] theorem applyReset_control (rest : List Input) : (s.applyReset rest).control = Control.afterReset := rfl
@[simp] theorem applyReset_tracker (rest : List Input) : (s.applyReset rest).tracker = Tracker.afterReset := rfl
@[simp] theorem applyReset_buffer (rest : List Input) : (s.applyReset rest).buffer = Buffer.afterReset := rfl
@[simp] theorem applyReset_sched (rest : List Input) : (s.applyReset rest).sched = Scheduler.afterReset := rfl
@[simp] theorem applyReset_nowMs (rest : List Input) : (s.applyReset rest).nowMs = s.nowMs := rfl
@[simp] theorem applyReset_pending (rest : List Input) : (s.applyReset rest).pending = rest := rfl
@[simp] theorem applyReset_outputs (rest : List Input) : (s.applyReset rest).outputs = s.outputs := rfl
@[simp] theorem applyReset_frameBus (rest : List Input) : (s.applyReset rest).frameBus = none := rfl
@[simp] theorem applyReset_resultBus (rest : List Input) : (s.applyReset rest).resultBus = none := rfl
@[simp] theorem applyReset_freeCount (rest : List Input) : (s.applyReset rest).freeCount = s.freeCount := rfl

end Sys2Proof.Machine.State
end

