-- ==== Sys2Proof/Laws/Ops.lean ====
section
/-! SUPPORT. One specification lemma per shared operation: what it does, said once, for later proofs to cite. -/

namespace Sys2Proof.Machine

/-! ### Conditions -/

theorem Tracker.locked_iff (tr : Tracker) : tr.locked = true ↔ tr.len = 3 := by
  have h := tr.len.isLt
  simp only [Tracker.locked, Config.histDepth_val, decide_eq_true_eq]
  constructor
  · intro h3
    apply BitVec.eq_of_toNat_eq
    simpa using (by omega : tr.len.toNat = 3)
  · intro h3
    simp [h3]

theorem Tracker.locked_of_len (tr : Tracker) (h : tr.len = 3) : tr.locked = true := tr.locked_iff.2 h

theorem Tracker.not_locked_of_lt (tr : Tracker) (h : tr.len.toNat < 3) : tr.locked = false := by
  simp [Tracker.locked, h]

theorem Tracker.classify_locked (tr : Tracker) (t : Tick) (h : tr.len = 3) : tr.classify t = tr.track t := by
  simp [Tracker.classify, tr.locked_of_len h]

theorem Tracker.classify_calibrating (tr : Tracker) (t : Tick) (h : tr.len.toNat < 3) :
    tr.classify t = tr.calibrate t := by
  simp [Tracker.classify, tr.not_locked_of_lt h]

theorem within_iff (d : Int) (c : Nat) : within d c = true ↔ (d - c).natAbs < 50 := by
  simp [within]

/-! ### The Cadence Tracker -/

/-- The window of a delta, as ranges (R101, R106). -/
theorem windowOf_eq (d : Int) : windowOf d =
    if 951 ≤ d ∧ d ≤ 1049 then some 1 else if 1951 ≤ d ∧ d ≤ 2049 then some 2
    else if 2951 ≤ d ∧ d ≤ 3049 then some 3 else none := by
  have h (c : Nat) : within d c = decide ((c : Int) - 49 ≤ d ∧ d ≤ c + 49) := by
    rw [within, Config.jitter_val, decide_eq_decide]
    omega
  simp only [windowOf, Config.maxTicks_val, Config.cell_val, List.range', List.find?_cons, List.find?_nil, h]
  repeat' split
  all_goals simp only [decide_eq_true_eq, decide_eq_false_iff_not] at *
  all_goals first | rfl | (exfalso; omega)

/-- Everything the locked path can do (R105). -/
theorem Tracker.track_cases (tr : Tracker) (t : Tick) :
    (tdiff t tr.h0 ≤ 950 ∧ tr.track t = (tr, .invalid .early)) ∨
    (∃ k, windowOf (tdiff t tr.h0) = some k ∧ 950 < tdiff t tr.h0 ∧ tr.track t = (tr.prepend t tr.len, .tick k)) ∨
    (windowOf (tdiff t tr.h0) = none ∧ 950 < tdiff t tr.h0 ∧ tr.track t = (Tracker.cleared, .invalid .lost)) := by
  simp only [Tracker.track, Config.cell_val, Config.jitter_val]
  norm_num
  by_cases h : tdiff t tr.h0 ≤ 950
  · exact .inl ⟨h, by simp [h]⟩
  · cases e : windowOf (tdiff t tr.h0) with
    | none => exact .inr (.inr ⟨rfl, by omega, by simp [h]⟩)
    | some k => exact .inr (.inl ⟨k, rfl, by omega, by simp [h]⟩)

/-- What it takes for every retained entry to fit the cadence (R104). -/
theorem cadenceMatches_valid (tr : Tracker) (t : Tick) (h : tr.len.toNat < 3) :
    cadenceMatches t 0 tr.valid = true ↔
      ∀ i, i < tr.len.toNat → (tdiff t (tr.entry i) - ((i : Int) + 1) * 1000).natAbs < 50 := by
  rcases (by omega : tr.len.toNat = 0 ∨ tr.len.toNat = 1 ∨ tr.len.toNat = 2) with e | e | e
  · simp [Tracker.valid, e, cadenceMatches]
  · simp [Tracker.valid, e, cadenceMatches, within, Tracker.entry]
  · simp only [Tracker.valid, e, cadenceMatches, within, List.take]
    constructor
    · intro hh i hi
      rcases (by omega : i = 0 ∨ i = 1) with rfl | rfl <;> simp_all [Tracker.entry]
    · intro hh
      have h0 := hh 0 (by omega)
      have h1 := hh 1 (by omega)
      simp_all [Tracker.entry]

/-- Everything the calibration path can do (R104). -/
theorem Tracker.calibrate_cases (tr : Tracker) (t : Tick) :
    (cadenceMatches t 0 tr.valid = true ∧ tr.calibrate t = (tr.prepend t (tr.len + 1), .invalid .calibrating)) ∨
    (cadenceMatches t 0 tr.valid = false ∧ tr.calibrate t = (Tracker.cleared, .invalid .calMismatch)) := by
  cases h : cadenceMatches t 0 tr.valid <;> simp [Tracker.calibrate, h]

/-! ### The Bit Buffer -/

/-- A write of one bit changes that bit alone (R131). -/
theorem getLsbD_writeBit (v : Frame) (i j : Nat) (b : Bool) (hj : j < 59) :
    (writeBit v i b).getLsbD j = if j = i then b else v.getLsbD j := by
  unfold writeBit
  simp only [BitVec.getLsbD_or, BitVec.getLsbD_and, BitVec.getLsbD_not, BitVec.getLsbD_shiftLeft, BitVec.getLsbD_setWidth,
    BitVec.getLsbD_one, BitVec.getLsbD_ofBool, hj]
  by_cases h : j = i
  · subst h
    simp
  · by_cases h2 : j < i
    · simp [h, h2]
    · have : j - i ≠ 0 := by omega
      have : ¬ (j - i = 0) := this
      simp [h, h2, this]

theorem Buffer.push_cnt (b : Buffer) (bit : Bool) : (b.push bit).cnt.toNat = min (b.cnt.toNat + 1) 63 := by
  simp only [Buffer.push, Config.cntMax_val, BitVec.toNat_ofNat]
  omega

/-- The bits after a push (R131). -/
theorem Buffer.push_bits (b : Buffer) (bit : Bool) (i : Nat) (hi : i < 59) :
    (b.push bit).bits.getLsbD i = if i = b.cnt.toNat then bit else b.bits.getLsbD i := by
  simp only [Buffer.push, Config.frameLen_val]
  split
  · exact getLsbD_writeBit _ _ _ _ hi
  · rw [if_neg (by omega)]

theorem Buffer.extract_eq (b : Buffer) :
    b.extract = if 59 ≤ b.cnt.toNat then .ok b.bits else .incomplete := by
  simp [Buffer.extract, Buffer.isComplete]

/-! ### Outputs -/

/-- What SCH_SCHEDULE does (R181). -/
theorem State.schedule_eq (s : State) (t0 : Tick) : s.schedule t0 = { s with
    sched := ⟨true, s.sched.tag + 1⟩
    outputs := s.outputs ++ [.timerReq (timerWord (sampleDelay s.nowMs t0) (s.sched.tag + 1))] } := rfl

/-- What a minute boundary does to the frame that just ended (R207). -/
theorem State.closeFrame_eq (s : State) : s.closeFrame = { s with
    buffer := ⟨0, 0⟩, outputs := s.outputs ++ [.event (frameReport s.buffer)] } := rfl

/-- The delay is the offset less the clamped elapsed time (R181). -/
theorem sampleDelay_eq (now t0 : Tick) :
    (sampleDelay now t0 : Int) = 150 - min (max (tdiff now t0) 0) 150 := by
  simp only [sampleDelay, Config.sampleOffset_val]
  push_cast
  omega

theorem requestTags_append (a b : List Output) : requestTags (a ++ b) = requestTags a ++ requestTags b := by
  induction a with
  | nil => rfl
  | cons x xs ih => cases x <;> simp [requestTags, ih]

theorem sampleDelay_le (now t0 : Tick) : sampleDelay now t0 ≤ 150 := by
  simp [sampleDelay]

/-- The fields of a TIMER_REQ word (R72). -/
theorem timerWord_tag (delay : Nat) (tag : Tag) : (timerWord delay tag).extractLsb' 8 8 = tag := by
  ext j hj
  have h : 8 + j < 16 := by omega
  simp [timerWord, BitVec.getElem_extractLsb', h, BitVec.getLsbD_eq_getElem hj]

theorem timerWord_delay (delay : Nat) (tag : Tag) (h : delay ≤ 150) :
    ((timerWord delay tag).extractLsb' 0 8).toNat = delay := by
  have : (timerWord delay tag).extractLsb' 0 8 = BitVec.ofNat 8 delay := by
    ext j hj
    simp [timerWord, BitVec.getElem_extractLsb', hj, (by omega : j < 16)]
  rw [this]
  simp
  omega

/-- EDGE while running, by its classification (R203, R205, R206, R207). -/
theorem execEdge_running (t0 : Tick) (s : State) (h : s.control.run = true) :
    execEdge t0 s = .next ((s.withTracker (s.tracker.classify t0).1).afterClassify t0 (s.tracker.classify t0).2) := by
  simp [execEdge, h]

theorem execEdge_idle (t0 : Tick) (s : State) (h : s.control.run = false) : execEdge t0 s = .next s := by
  simp [execEdge, h]

theorem State.accepts_iff (s : State) (tag : Tag) :
    s.accepts tag = true ↔ s.control.run = true ∧ s.sched.busy = true ∧ tag = s.sched.tag := by
  simp [State.accepts, and_assoc]

theorem execFire_accepted (tag : Tag) (level : Bool) (s : State) (h : s.accepts tag = true) :
    execFire tag level s = .next ((s.withSched ⟨false, s.sched.tag⟩).sample level) := by
  simp [execFire, h]

theorem execFire_discarded (tag : Tag) (level : Bool) (s : State) (h : s.accepts tag = false) :
    execFire tag level s = .next s := by
  simp [execFire, h]

end Sys2Proof.Machine
end

