-- ==== Sys2Proof/Laws/Controller.lean ====
section
/-! SUPPORT. Inversion lemmas: everything a classification, an EDGE or a FIRE can do, for the claims to cite. -/

namespace Sys2Proof.Machine

theorem histLen_cases (l : BitVec 2) : l = 0 ∨ l = 1 ∨ l = 2 ∨ l = 3 := by
  revert l
  decide

theorem Tracker.len_lt_of_ne (tr : Tracker) (h : tr.len ≠ 3) : tr.len.toNat < 3 := by
  rcases histLen_cases tr.len with e | e | e | e
  · simp [e]
  · simp [e]
  · simp [e]
  · exact absurd e h

/-- A classification `TICK(n)`: a locked tracker, a delta in window `n`, the edge prepended (R105 to R107). -/
theorem Tracker.classify_tick (tr : Tracker) (t : Tick) (n : Nat) (h : (tr.classify t).2 = .tick n) :
    tr.len = 3 ∧ windowOf (tdiff t tr.h0) = some n ∧ (tr.classify t).1 = ⟨3, t, tr.h0, tr.h1⟩ ∧ 1 ≤ n ∧ n ≤ 3 := by
  by_cases hl : tr.len = 3
  · rw [tr.classify_locked t hl] at h ⊢
    rcases tr.track_cases t with ⟨_, e⟩ | ⟨k, hk, _, e⟩ | ⟨_, _, e⟩
    · rw [e] at h
      cases h
    · rw [e] at h ⊢
      cases h
      refine ⟨hl, hk, by simp only [Tracker.prepend, hl], ?_⟩
      rw [windowOf_eq] at hk
      split_ifs at hk <;> cases hk <;> omega
    · rw [e] at h
      cases h
  · rw [tr.classify_calibrating t (tr.len_lt_of_ne hl)] at h
    rcases tr.calibrate_cases t with ⟨_, e⟩ | ⟨_, e⟩ <;> rw [e] at h <;> cases h

/-- A classification `INVALID(reason)`, reason by reason (R104, R105). -/
theorem Tracker.classify_invalid (tr : Tracker) (t : Tick) (r : TickReason) (h : (tr.classify t).2 = .invalid r) :
    (r = .calibrating ∧ tr.len ≠ 3 ∧ (tr.classify t).1 = ⟨tr.len + 1, t, tr.h0, tr.h1⟩ ∧
      cadenceMatches t 0 tr.valid = true) ∨
    (r = .calMismatch ∧ tr.len ≠ 3 ∧ tr.len ≠ 0 ∧ (tr.classify t).1 = ⟨0, 0, 0, 0⟩ ∧
      cadenceMatches t 0 tr.valid = false) ∨
    (r = .early ∧ tr.len = 3 ∧ (tr.classify t).1 = tr ∧ tdiff t tr.h0 ≤ 950) ∨
    (r = .lost ∧ tr.len = 3 ∧ (tr.classify t).1 = ⟨0, 0, 0, 0⟩ ∧ 950 < tdiff t tr.h0 ∧
      windowOf (tdiff t tr.h0) = none) := by
  by_cases hl : tr.len = 3
  · rw [tr.classify_locked t hl] at h ⊢
    rcases tr.track_cases t with ⟨h1, e⟩ | ⟨k, hk, _, e⟩ | ⟨h1, h2, e⟩ <;> rw [e] at h ⊢ <;> cases h
    · exact .inr (.inr (.inl ⟨rfl, hl, rfl, h1⟩))
    · exact .inr (.inr (.inr ⟨rfl, hl, rfl, h2, h1⟩))
  · rw [tr.classify_calibrating t (tr.len_lt_of_ne hl)] at h ⊢
    rcases tr.calibrate_cases t with ⟨h1, e⟩ | ⟨h1, e⟩ <;> rw [e] at h ⊢ <;> cases h
    · exact .inl ⟨rfl, hl, rfl, h1⟩
    · refine .inr (.inl ⟨rfl, hl, fun h0 => ?_, rfl, h1⟩)
      simp [Tracker.valid, h0, cadenceMatches] at h1

/-- The Controller state by the registers, without the "locked" condition (R22). -/
theorem State.phase_eq (s : State) : s.phase =
    if s.control.run = false then .idle else if s.tracker.len = 0 then .armed
    else if s.tracker.len = 3 then .accumulating else .calibrating := by
  unfold State.phase
  cases s.control.run with
  | false => rfl
  | true =>
    simp only [Bool.not_true, Bool.false_eq_true, if_false, reduceCtorEq]
    split
    · rfl
    · by_cases h3 : s.tracker.len = 3
      · rw [s.tracker.locked_of_len h3, if_pos h3, if_pos rfl]
      · rw [s.tracker.not_locked_of_lt (s.tracker.len_lt_of_ne h3), if_neg h3, if_neg Bool.false_ne_true]

/-- Everything an EDGE can do (R203 to R207). -/
theorem execEdge_cases (s t : State) (t0 : Tick) (h : execEdge t0 s = .next t) :
    (s.control.run = false ∧ t = s) ∨
    (∃ r, s.control.run = true ∧ (s.tracker.classify t0).2 = .invalid r ∧ t = { s with
      tracker := (s.tracker.classify t0).1, outputs := s.outputs ++ [.event (tickErrorWord r)] }) ∨
    (∃ n, s.control.run = true ∧ (s.tracker.classify t0).2 = .tick n ∧ n = 1 ∧ t = { s with
      tracker := (s.tracker.classify t0).1
      sched := ⟨true, s.sched.tag + 1⟩
      outputs := s.outputs ++ [.timerReq (timerWord (sampleDelay s.nowMs t0) (s.sched.tag + 1))] }) ∨
    (∃ n, s.control.run = true ∧ (s.tracker.classify t0).2 = .tick n ∧ 2 ≤ n ∧ t = { s with
      tracker := (s.tracker.classify t0).1
      buffer := ⟨0, 0⟩
      sched := ⟨true, s.sched.tag + 1⟩
      outputs := s.outputs ++ [.event (frameReport s.buffer),
        .timerReq (timerWord (sampleDelay s.nowMs t0) (s.sched.tag + 1))] }) := by
  cases hr : s.control.run with
  | false =>
    rw [execEdge_idle _ _ hr] at h
    cases h
    exact .inl ⟨rfl, rfl⟩
  | true =>
    rw [execEdge_running _ _ hr] at h
    cases h
    cases hc : (s.tracker.classify t0).2 with
    | invalid r => exact .inr (.inl ⟨r, rfl, rfl, rfl⟩)
    | tick n =>
      have hw := s.tracker.classify_tick t0 n hc
      by_cases hn : 2 ≤ n
      · refine .inr (.inr (.inr ⟨n, rfl, rfl, hn, ?_⟩))
        simp [State.afterClassify, boundary, hn, State.schedule_eq, State.closeFrame_eq, State.withTracker]
      · refine .inr (.inr (.inl ⟨n, rfl, rfl, by omega, ?_⟩))
        simp [State.afterClassify, boundary, hn, State.schedule_eq, State.withTracker]

/-- Everything a FIRE can do (R184, R187, R208). -/
theorem execFire_cases (s t : State) (tag : Tag) (level : Bool) (h : execFire tag level s = .next t) :
    (s.accepts tag = false ∧ t = s) ∨
    (s.control.run = true ∧ s.sched.busy = true ∧ tag = s.sched.tag ∧ t = { s with
      buffer := s.buffer.push level
      sched := ⟨false, s.sched.tag⟩
      outputs := s.outputs ++ [.event (tickWord level)] }) := by
  cases ha : s.accepts tag with
  | false =>
    rw [execFire_discarded _ _ _ ha] at h
    cases h
    exact .inl ⟨rfl, rfl⟩
  | true =>
    rw [execFire_accepted _ _ _ ha] at h
    cases h
    obtain ⟨h1, h2, h3⟩ := (s.accepts_iff tag).1 ha
    exact .inr ⟨h1, h2, h3, rfl⟩

theorem tickWord_eq (b : Bool) : tickWord b = if b then 0x101 else 0x001 := by
  cases b <;> decide

theorem kindOf_syncWord (ts : Timestamp) : kindOf (syncWord ts) = 2 := by
  simp (disch := decide) [kindOf, syncWord, bitsAt_or, bitsAt_place_eq, bitsAt_place_disjoint]

theorem kindOf_beaconErrorWord (k : BeaconKind) : kindOf (beaconErrorWord k) = 4 := by
  cases k <;> decide

/-- What a boundary reports: INCOMPLETE, a parity error or a SYNC (R207, R250). -/
theorem frameReport_cases (b : Buffer) :
    (b.cnt.toNat < 59 ∧ frameReport b = beaconErrorWord .incomplete) ∨
    (59 ≤ b.cnt.toNat ∧ ∃ k, decodeFrame b.bits = .err k ∧ frameReport b = beaconErrorWord k) ∨
    (59 ≤ b.cnt.toNat ∧ ∃ ts, decodeFrame b.bits = .ok ts ∧ frameReport b = syncWord ts) := by
  by_cases h : 59 ≤ b.cnt.toNat
  · cases e : decodeFrame b.bits with
    | err k => exact .inr (.inl ⟨h, k, rfl, by simp [frameReport, b.extract_eq, h, e]⟩)
    | ok ts => exact .inr (.inr ⟨h, ts, rfl, by simp [frameReport, b.extract_eq, h, e]⟩)
  · exact .inl ⟨by omega, by simp [frameReport, b.extract_eq, h]⟩

end Sys2Proof.Machine
end

