-- ==== Sys2Proof/Laws/PerInstr.lean ====
section
/-! SUPPORT. A statement about every instruction as syntax, one lemma per constructor: the opcode field of its word is the
opcode map's entry (R65), whatever its operands. -/

namespace Sys2Proof.Laws

namespace OpcodeField

/-- The opcode field of the instruction's word. -/
def Statement (i : Instr) : Prop := bitsAt (encode i) 0 4 = i.opcode

theorem start : Statement .start := rfl
theorem stop : Statement .stop := rfl
theorem edge (t0 : Tick) : Statement (.edge t0) := by
  simp [Statement, encode, Instr.operandBits, bitsAt_or, bitsAt_place_eq, bitsAt_place_disjoint]
theorem fire (tag : Tag) (level : Bool) : Statement (.fire tag level) := by
  simp [Statement, encode, Instr.operandBits, bitsAt_or, bitsAt_place_eq, bitsAt_place_disjoint]
theorem diag : Statement .diag := rfl
theorem schSchedule (t0 : Tick) : Statement (.schSchedule t0) := by
  simp [Statement, encode, Instr.operandBits, bitsAt_or, bitsAt_place_eq, bitsAt_place_disjoint]
theorem trkReset : Statement .trkReset := rfl
theorem trkClassify (t0 : Tick) : Statement (.trkClassify t0) := by
  simp [Statement, encode, Instr.operandBits, bitsAt_or, bitsAt_place_eq, bitsAt_place_disjoint]
theorem bufReset : Statement .bufReset := rfl
theorem bufPush (bit : Bool) : Statement (.bufPush bit) := by
  simp [Statement, encode, Instr.operandBits, bitsAt_or, bitsAt_place_eq, bitsAt_place_disjoint]
theorem bufIsComplete (minLen : Count) : Statement (.bufIsComplete minLen) := by
  simp [Statement, encode, Instr.operandBits, bitsAt_or, bitsAt_place_eq, bitsAt_place_disjoint]
theorem bufExtract : Statement .bufExtract := rfl
theorem parFold (x : BitVec 32) : Statement (.parFold x) := by
  simp [Statement, encode, Instr.operandBits, bitsAt_or, bitsAt_place_eq, bitsAt_place_disjoint]
theorem frmDecode : Statement .frmDecode := rfl

end OpcodeField

end Sys2Proof.Laws
end

