-- ==== Sys2Proof/Laws/Step.lean ====
section
/-! SUPPORT. What one step can do, said once: the block waits, is reset, performs a command or performs a micro-operation. -/

namespace Sys2Proof.Machine

theorem acceptCommand_ok (w : Word) (i : Instr) :
    acceptCommand w = .ok i ↔ decodeWord w = .ok i ∧ i.format = .cmd := by
  unfold acceptCommand
  cases decodeWord w with
  | error e => simp
  | ok j => cases hf : j.format <;> simp [Instr.wellFormedCommand, hf] <;> rintro rfl <;> simp [hf]

theorem acceptMicroOp_ok (w : Word) (i : Instr) :
    acceptMicroOp w = .ok i ↔ decodeWord w = .ok i ∧ i.format = .uop := by
  unfold acceptMicroOp
  cases decodeWord w with
  | error e => simp
  | ok j => cases hf : j.format <;> simp [Instr.wellFormedMicroOp, hf] <;> rintro rfl <;> simp [hf]

/-- Everything a step that answers a next state can be. -/
theorem step_cases (s t : State) (h : step s = .next t) :
    (s.pending = [] ∧ t = s) ∨
    (∃ rest, s.pending = .reset :: rest ∧ t = s.applyReset rest) ∨
    (∃ w now rest i, s.pending = .command w now :: rest ∧ decodeWord w = .ok i ∧ i.format = .cmd ∧
      exec i (s.beginCommand now rest) = .next t) ∨
    (∃ w now rest i, s.pending = .microOp w now :: rest ∧ decodeWord w = .ok i ∧ i.format = .uop ∧
      exec i (s.beginMicroOp now rest) = .next t) := by
  unfold step at h
  cases hp : s.pending with
  | nil =>
    rw [hp] at h
    cases h
    exact .inl ⟨rfl, rfl⟩
  | cons x rest =>
    rw [hp] at h
    cases x with
    | reset =>
      cases h
      exact .inr (.inl ⟨rest, rfl, rfl⟩)
    | command w now =>
      cases ha : acceptCommand w with
      | error r => simp [ha] at h
      | ok i =>
        obtain ⟨hd, hf⟩ := (acceptCommand_ok w i).1 ha
        simp only [ha] at h
        exact .inr (.inr (.inl ⟨w, now, rest, i, rfl, hd, hf, h⟩))
    | microOp w now =>
      cases ha : acceptMicroOp w with
      | error r => simp [ha] at h
      | ok i =>
        obtain ⟨hd, hf⟩ := (acceptMicroOp_ok w i).1 ha
        simp only [ha] at h
        exact .inr (.inr (.inr ⟨w, now, rest, i, rfl, hd, hf, h⟩))

end Sys2Proof.Machine
end

