-- ==== Sys2Proof/Tests/Slice0.lean ====
section
/-! SUPPORT. The model's own tests. Expected values are those of `95_test_vectors.md` (named V-… and P…) or are worked
out by hand from the rule named; none is the model's own answer. Then, for each obligation with hypotheses, a concrete
state and operands that meet them. -/

namespace Sys2Proof.Tests

open Sys2Proof.Machine

/-! ### Helpers -/

/-- The next state of an outcome. -/
def after (o : Host.Outcome State Fault Refusal) : Option State :=
  match o with
  | .next t => some t
  | .fault _ => none
  | .refused _ => none

/-- An outcome is a refusal. -/
def isRefused (o : Host.Outcome State Fault Refusal) : Bool :=
  match o with
  | .next _ => false
  | .fault _ => false
  | .refused _ => true

theorem next_of_after {o : Host.Outcome State Fault Refusal} {t : State} (h : after o = some t) : o = .next t := by
  cases o with
  | next s => cases h; rfl
  | fault r => cases h
  | refused r => cases h

/-- A running block with the given history. -/
def running (tr : Tracker) : State := { State.reset with control := ⟨true, true, true⟩, tracker := tr }

/-- The locked tracker of the vectors V-TRK-4 to V-TRK-25. -/
def lockedTracker : Tracker := ⟨3, 12000, 11000, 10000⟩

/-- A running, locked block. -/
def locked : State := running lockedTracker

/-- A running, locked block whose buffer holds 59 bits of the frame `f`. -/
def full (f : Frame) : State := { locked with buffer := ⟨59, f⟩ }

/-- A running, locked block with request 5 outstanding. -/
def waiting : State := { locked with sched := ⟨true, 5⟩ }

/-- The frame of V-DEC-1: 2026-11-11 13:03. -/
def frame1 : Frame := 0x49a2d1a60740000

/-! ### Encoding: words written out from R61 to R63, bit fields `63:32 | 31:22 | 21:16 | 15:8 | 7:4 | 3:0` -/

theorem test_decode_start : decodeWord 0x0000000000000001 = .ok .start := by decide
theorem test_decode_stop : decodeWord 0x0000000000000002 = .ok .stop := by decide
theorem test_decode_edge : decodeWord 0b00000000000000000010011100010000_0000000000_000000_00000000_0000_0011
    = .ok (.edge 10000) := by decide
theorem test_decode_fire : decodeWord 0b00000000000000000000000000000000_0000000000_000001_00000101_0000_0100
    = .ok (.fire 5 true) := by decide
theorem test_decode_diag : decodeWord 0x0000000000000005 = .ok .diag := by decide
theorem test_decode_schSchedule : decodeWord 0x000032c800000006 = .ok (.schSchedule 13000) := by decide
theorem test_decode_trkReset : decodeWord 0x0000000000000007 = .ok .trkReset := by decide
theorem test_decode_trkClassify : decodeWord 0x00002ee000000008 = .ok (.trkClassify 12000) := by decide
theorem test_decode_bufReset : decodeWord 0x0000000000000009 = .ok .bufReset := by decide
theorem test_decode_bufPush : decodeWord 0b00000000000000000000000000000000_0000000000_000001_00000000_0000_1010
    = .ok (.bufPush true) := by decide
theorem test_decode_bufIsComplete : decodeWord 0b00000000000000000000000000000000_0000000000_111011_00000000_0000_1011
    = .ok (.bufIsComplete 59) := by decide
theorem test_decode_bufExtract : decodeWord 0x000000000000000c = .ok .bufExtract := by decide
theorem test_decode_parFold : decodeWord 0x123456780000000d = .ok (.parFold 0x12345678) := by decide
theorem test_decode_frmDecode : decodeWord 0x000000000000000e = .ok .frmDecode := by decide

/-- R66: reserved opcodes, and a non-zero unused field of every kind. -/
theorem test_decode_rejects :
    decodeWord 0 = .error (.reservedOpcode 0) ∧ decodeWord 0xf = .error (.reservedOpcode 0xf) ∧
    decodeWord 0x0000000100000001 = .error (.unusedFieldNotZero 1) ∧
    decodeWord 0x0000000000010003 = .error (.unusedFieldNotZero 3) ∧
    decodeWord 0x0000000000020504 = .error (.unusedFieldNotZero 4) ∧
    decodeWord 0x000000000001010a = .error (.unusedFieldNotZero 0xa) ∧
    decodeWord 0x000000000040000b = .error (.unusedFieldNotZero 0xb) ∧
    decodeWord 0x000000000000001e = .error (.unusedFieldNotZero 0xe) := by decide

/-- R52: least significant byte first; seven bytes are no word. -/
theorem test_decode_bytes :
    decodeBytes [0x03, 0, 0, 0, 0x10, 0x27, 0, 0, 0xff] = .ok (.edge 10000, [0xff]) ∧
    decodeBytes [0x01, 0, 0, 0, 0, 0, 0] = .error (.truncated 7) := by decide

/-- No word belongs to two rows of the opcode table: two rows differ at a bit both match on. -/
theorem test_opcodeRows_disjoint :
    opcodeRows.Pairwise fun a b => (a.bits ^^^ b.bits) &&& a.mask &&& b.mask ≠ 0 := by decide

/-- Every row of the table is decoded and performed as the first instruction after reset (R65, assumption log 13). -/
theorem test_first_after_reset :
    opcodeRows.all (fun r => (decodeTableWord 64 r.bits.toNat).isSome &&
      (after (step (State.reset.withFetchWord 64 r.bits.toNat))).isSome) = true := by decide

/-! ### Well-formedness: an ill-formed term for each check -/

theorem test_wf_port_refuses_uop : (Instr.bufReset).wellFormedCommand = false ∧
    isRefused (step { State.reset with pending := [.command 0x9 0] }) = true := by decide
theorem test_wf_bus_refuses_cmd : (Instr.start).wellFormedMicroOp = false ∧
    isRefused (step { State.reset with pending := [.microOp 0x1 0] }) = true := by decide
theorem test_wf_edge : (AsmLine.edge 4294967296 none).wellFormed = false ∧
    (AsmLine.edge 4294967296 none).instr? = none := by decide
theorem test_wf_edge_now : (AsmLine.edge 0 (some 4294967296)).wellFormed = false ∧
    (AsmLine.edge 4294967296 (some 0)).wellFormed = false ∧ lineInput? (.edge 0 (some 4294967296)) = none := by decide
theorem test_wf_fire : (AsmLine.fire 256 0).wellFormed = false ∧ (AsmLine.fire 0 2).wellFormed = false ∧
    (AsmLine.fire 256 0).instr? = none := by decide
theorem test_wf_second : (AsmLine.second 4294967296 0).wellFormed = false ∧
    (AsmLine.second 0 2).wellFormed = false := by decide
theorem test_wf_ticks : (AsmLine.uopSchSchedule 4294967296).wellFormed = false ∧
    (AsmLine.uopTrkClassify 4294967296).wellFormed = false ∧ (AsmLine.uopTrkClassify 4294967296).instr? = none := by
  decide
theorem test_wf_push : (AsmLine.uopBufPush 2).wellFormed = false ∧ (AsmLine.uopBufPush 2).instr? = none := by decide
theorem test_wf_isComplete : (AsmLine.uopBufIsComplete 64).wellFormed = false ∧
    (AsmLine.uopBufIsComplete 64).instr? = none := by decide
theorem test_wf_fold : (AsmLine.uopParFold 4294967296).wellFormed = false ∧
    (AsmLine.uopParFold 4294967296).instr? = none := by decide

/-! ### Primitives: V-TD-1, 2, 3, 4 and V-WI-1, 2, 3, 4, 8, 9 -/

theorem test_tdiff : tdiff 0 0xfffffc18 = 1000 ∧ tdiff 5 10 = -5 ∧ tdiff 0x80000000 0 = -2147483648 ∧
    tdiff 0x7fffffff 0 = 2147483647 := by decide
theorem test_within : within 1049 1000 = true ∧ within 1050 1000 = false ∧ within 951 1000 = true ∧
    within 950 1000 = false ∧ within 3049 3000 = true ∧ within 3050 3000 = false := by decide

/-! ### One or two steps of each instruction -/

/-- R201: a restart empties buffer and tracker, forgets the request and keeps the tag. -/
theorem test_start : after (exec .start { waiting with buffer := ⟨1, 1⟩ }) =
    some { State.reset with control := ⟨true, true, true⟩, sched := ⟨false, 5⟩ } := by decide

/-- R202: the worked example; the buffer and the history stay. -/
theorem test_stop : after (exec .stop { waiting with sched := ⟨true, 7⟩, buffer := ⟨1, 1⟩ }) =
    some { locked with control := ⟨false, false, false⟩, sched := ⟨false, 7⟩, buffer := ⟨1, 1⟩ } := by decide

/-- R203: `EDGE 13000 @now=13002` presents `TIMER_REQ(148, SCHED_TAG + 1)` and emits nothing. -/
theorem test_edge_tick : (after (exec (.edge 13000) { locked with nowMs := 13002, sched := ⟨false, 4⟩ })).map
    (fun t => (t.outputs, t.sched, t.tracker.h0)) = some ([.timerReq 0x0594], ⟨true, 5⟩, 13000) := by decide

/-- P2, line 64: the boundary emits the SYNC word, empties the buffer, then requests its own sample. -/
theorem test_edge_boundary : (after (exec (.edge 14000) { full frame1 with nowMs := 14000, sched := ⟨false, 59⟩ })).map
    (fun t => (t.outputs, t.buffer)) = some ([.event 0x07ea0b0b0d030002, .timerReq 0x3c96], ⟨0, 0⟩) := by decide

/-- R208: the worked example, from the word of the command port. -/
theorem test_fire_accepted : (after (step { waiting with pending := [.command 0x0000000000010504 0] })).map
    (fun t => (t.outputs, t.buffer, t.sched)) = some ([.event 0x101], ⟨1, 1⟩, ⟨false, 5⟩) := by decide

/-- P3, line 7: a FIRE after STOP is discarded. -/
theorem test_fire_discarded : after (exec (.fire 1 true) State.reset) = some State.reset := by decide

/-- P3, line 16, the DIAG record. -/
theorem test_diag : (after (exec .diag { running ⟨3, 18000, 17000, 16000⟩ with
    buffer := ⟨1, 0⟩, sched := ⟨false, 2⟩ })).map (·.outputs) =
    some [.diagOut 0x10237 0x0 0x426800004650 0x3e80] := by decide

/-- R181: the worked example. -/
theorem test_schSchedule : (after (exec (.schSchedule 13000) { locked with nowMs := 13003, sched := ⟨false, 4⟩ })).map
    (fun t => (t.outputs, t.sched)) = some ([.timerReq 0x0593], ⟨true, 5⟩) := by decide

/-- R181: late and early `NOW_MS`, and the tag wraps. -/
theorem test_schSchedule_clamp :
    (after (exec (.schSchedule 13000) { locked with nowMs := 13151, sched := ⟨true, 255⟩ })).map (·.outputs) =
      some [.timerReq 0x0000] ∧
    (after (exec (.schSchedule 13000) { locked with nowMs := 12999, sched := ⟨true, 0⟩ })).map (·.outputs) =
      some [.timerReq 0x0196] := by decide

/-- V-TRK-27. -/
theorem test_trkReset : (after (exec .trkReset locked)).map (·.tracker) = some ⟨0, 0, 0, 0⟩ := by decide

/-- V-TRK-1, 3, 7 and 8: the calibration path. -/
theorem test_trkClassify_calibrating :
    (⟨0, 0, 0, 0⟩ : Tracker).classify 10000 = (⟨1, 10000, 0, 0⟩, .invalid .calibrating) ∧
    (⟨2, 11000, 10000, 0⟩ : Tracker).classify 12000 = (lockedTracker, .invalid .calibrating) ∧
    (⟨2, 11040, 10000, 0⟩ : Tracker).classify 12080 = (⟨0, 0, 0, 0⟩, .invalid .calMismatch) ∧
    (⟨1, 10000, 0, 0⟩ : Tracker).classify 10000 = (⟨0, 0, 0, 0⟩, .invalid .calMismatch) := by decide

/-- V-TRK-10 to 22 (the edges of every window) and V-TRK-26 (across the wrap). -/
theorem test_trkClassify_locked :
    [13049, 13050, 13051, 12950, 12951, 13950, 13951, 14049, 14050, 14950, 14951, 15049, 15050].map
      (fun t => (lockedTracker.classify t).2) =
      [.tick 1, .invalid .lost, .invalid .lost, .invalid .early, .tick 1, .invalid .lost, .tick 2, .tick 2,
       .invalid .lost, .invalid .lost, .tick 3, .tick 3, .invalid .lost] ∧
    (⟨3, 4294966796, 4294965796, 4294964796⟩ : Tracker).classify 500 =
      (⟨3, 500, 4294966796, 4294965796⟩, .tick 1) := by decide

/-- V-BUF-1. -/
theorem test_bufReset : (after (exec .bufReset { locked with buffer := ⟨15, 0x5b6d⟩ })).map (·.buffer) =
    some ⟨0, 0⟩ := by decide

/-- V-BUF-2 and V-BUF-3. -/
theorem test_bufPush : (after (exec (.bufPush true) { locked with buffer := ⟨2, 1⟩ })).map (·.buffer) = some ⟨3, 5⟩ ∧
    (after (exec (.bufPush false) State.reset)).map (·.buffer) = some ⟨1, 0⟩ := by decide

/-- V-BUF-11, and the saturated count of V-BUF-13. -/
theorem test_bufPush_full : (after (exec (.bufPush true) (full frame1))).map (·.buffer) = some ⟨60, frame1⟩ ∧
    (after (exec (.bufPush true) { locked with buffer := ⟨63, 0x7ffffffffffffff⟩ })).map (·.buffer) =
      some ⟨63, 0x7ffffffffffffff⟩ := by decide

/-- V-BUF-4, 7, 9 and 14. -/
theorem test_bufIsComplete : (⟨58, 1⟩ : Buffer).isComplete 59 = false ∧ (⟨59, 1⟩ : Buffer).isComplete 59 = true ∧
    (⟨0, 0⟩ : Buffer).isComplete 0 = true ∧ (⟨63, 0x7ffffffffffffff⟩ : Buffer).isComplete 63 = true := by decide

/-- V-BUF-10: the frame is the result and is on the frame bus. -/
theorem test_bufExtract : (after (exec .bufExtract (full frame1))).map (fun t => (t.resultBus, t.frameBus, t.buffer)) =
    some (some (.extracted (.ok frame1)), some frame1, ⟨59, frame1⟩) := by decide

/-- V-BUF-5: 58 bits are too few. -/
theorem test_bufExtract_incomplete : (after (exec .bufExtract { locked with buffer := ⟨58, 1⟩ })).map (·.resultBus) =
    some (some (.extracted .incomplete)) := by decide

/-- V-PAR-1 to 10. -/
theorem test_parFold : [0x0, 0xff, 0x7f, 0x7fffff, 0x400000, 0x1, 0x3, 0xffffffff, 0x80000000, 0x12345678].map fold =
    [false, false, true, true, true, true, false, false, true, true] := by decide

/-- V-DEC-1, 2, 3 and 12: decoded frames, the last out of the calendar's range (R158). -/
theorem test_frmDecode : (after (exec .frmDecode { locked with frameBus := some frame1 })).map (·.resultBus) =
      some (some (.decoded (.ok ⟨2026, 11, 11, 13, 3⟩))) ∧
    decodeFrame 0x381000140000 = .ok ⟨2000, 1, 1, 0, 0⟩ ∧
    decodeFrame 0x266531c6b340000 = .ok ⟨2099, 12, 31, 23, 59⟩ ∧
    decodeFrame 0x1fe00000 = .ok ⟨2000, 0, 0, 0, 85⟩ := by decide

/-- V-DEC-4 to 8: each parity error, and the order of the checks. -/
theorem test_frmDecode_parity : [0x49a2d1a70740000, 0x49a2d1260740000, 0x9a2d1a60740000, 0x9a2d1260740000,
    0x49a2d1270740000].map decodeFrame =
    [.err .parityMinute, .err .parityHour, .err .parityDate, .err .parityDate, .err .parityHour] := by decide

/-- R67, R68: the inputs of assembler lines and of a SECOND whose EDGE requested tag 5. -/
theorem test_assembler : lineInput? (.edge 13000 (some 13003)) = some (.command 0x000032c800000003 13003) ∧
    lineInput? (.uopSchSchedule 13000) = some (.microOp 0x000032c800000006 13000) ∧
    secondInputs 13000 true [.timerReq 0x0596] =
      [.command 0x000032c800000003 13000, .command 0x0000000000010504 13000] ∧
    secondInputs 13000 true [.event 0x203] = [.command 0x000032c800000003 13000] := by decide

/-- R52, R72: `TIMER_REQ(148, 5)`, and the SYNC word of P2, over a byte-wide channel. -/
theorem test_output_bytes : (Output.timerReq 0x0594).bytes = [0x94, 0x05] ∧
    (Output.event 0x07ea0b0b0d030002).bytes = [0x02, 0x00, 0x03, 0x0d, 0x0b, 0x0b, 0xea, 0x07] := by decide

/-- R270: the reset input clears every register and presents nothing. -/
theorem test_reset_input : after (step { waiting with pending := [.reset] }) = some State.reset := by decide

/-! ### Witnesses: the hypotheses of the obligations, met -/

theorem witness_EncodeInvertsDecode : decodeWord 0x0000000000010504 = .ok (.fire 5 true) := by decide

/-- Each clause of R66 on the command port, a word it accepts, and both cases of the micro-operation. -/
theorem witness_IllegalWordsAreRefused :
    [0x0, 0xf, 0x6, 0xe, 0x0000000080000003, 0x0000000000000013, 0x0000000000000014, 0x0000000000020004,
      0x0000000100000004, 0x8000000000000001, 0x0000000000000012, 0x8000000000000005].all
      (fun w => isRefused (step { locked with pending := [.command w 7] })) = true ∧
    isRefused (step { locked with pending := [.command 0xffffffff00000003 7] }) = false ∧
    isRefused (step { locked with pending := [.microOp 0x000000000002000a 7] }) = true ∧
    isRefused (step { locked with pending := [.microOp 0x000000000001000a 7] }) = false := by decide

theorem witness_StepPerformsTheDecodedWord :
    (decodeWord 0x0000271000000003 = .ok (.edge 10000) ∧ (Instr.edge 10000).format = .cmd ∧
      ({ locked with pending := [.command 0x0000271000000003 10002] } : State).pending =
        .command 0x0000271000000003 10002 :: []) ∧
    (decodeWord 0x000000000000000c = .ok .bufExtract ∧ (Instr.bufExtract).format = .uop ∧
      ({ locked with pending := [.microOp 0xc 1] } : State).pending = .microOp 0xc 1 :: []) := by decide

theorem witness_BytesAreLeastSignificantFirst :
    wordBytes 0x0807060504030201 = [1, 2, 3, 4, 5, 6, 7, 8] ∧ 7 < (wordBytes 0x0807060504030201).length ∧
    timerWordBytes 0x0594 = [0x94, 0x05] ∧ 1 < (timerWordBytes 0x0594).length := by decide

/-- Both sides of each end of the ranges of R67. -/
theorem witness_AssemblerLinesSpellInstructions :
    (4294967295 < 4294967296 ∧ 4294967296 ≤ 4294967296) ∧ (255 < 256 ∧ 256 ≤ 256) ∧ (1 < 2 ∧ 2 ≤ 2) ∧
    (63 < 64 ∧ 64 ≤ 64) := by decide

/-- An EDGE that requests a sample, and one that does not. -/
theorem witness_SecondExpandsByTheRequest :
    ∃ t u, exec (.edge 13000) locked = .next t ∧ t.outputs = locked.outputs ++ [.timerReq 0x0196] ∧
      exec (.edge 12500) locked = .next u ∧ u.outputs = locked.outputs ++ [.event 0x203] :=
  ⟨{ locked with tracker := ⟨3, 13000, 12000, 11000⟩, sched := ⟨true, 1⟩, outputs := [.timerReq 0x0196] },
    { locked with outputs := [.event 0x203] }, next_of_after (by decide), rfl, next_of_after (by decide), rfl⟩

theorem witness_ResetRegisterValues :
    ({ waiting with pending := [.reset, .command 1 0] } : State).pending = .reset :: [.command 1 0] := by decide

/-- Nothing offered; and the registers of reset in a state that is not the state of reset. -/
theorem witness_AfterResetTheBlockWaits : locked.pending = [] ∧
    ({ State.reset with nowMs := 3, outputs := [.event 0x101], pending := [.reset] } : State).sameRegisters State.reset :=
  ⟨rfl, rfl, rfl, rfl, rfl⟩

theorem witness_ResetAndStopRestartAlike :
    ({ full frame1 with pending := [.reset] } : State).pending = .reset :: [] := by decide

theorem witness_EdgeWhileIdleIsIgnored : ({ locked with control := ⟨false, false, false⟩ } : State).control.run = false := by
  decide

/-- All four reasons; and the calibrating lengths. -/
theorem witness_InvalidEdgeOnlyReports :
    (running ⟨2, 11000, 10000, 0⟩).control.run = true ∧
    ((running ⟨2, 11000, 10000, 0⟩).tracker.classify 12000).2 = .invalid .calibrating ∧
    ((running ⟨2, 11000, 10000, 0⟩).tracker.classify 12500).2 = .invalid .calMismatch ∧
    (locked.tracker.classify 12950).2 = .invalid .early ∧ (locked.tracker.classify 13050).2 = .invalid .lost ∧
    (⟨0, 0, 0, 0⟩ : Tracker).len.toNat < 3 ∧ (⟨2, 11000, 10000, 0⟩ : Tracker).len.toNat < 3 := by decide

theorem witness_OrdinaryTickSchedulesItsSample :
    locked.control.run = true ∧ (locked.tracker.classify 12951).2 = .tick 1 ∧
    (locked.tracker.classify 13049).2 = .tick 1 := by decide

/-- Both boundary counts; 58 and 59 bits; a failing date, hour and minute span, and none. -/
theorem witness_BoundaryEdgeReportsTheFrame :
    (full frame1).control.run = true ∧ ((full frame1).tracker.classify 14000).2 = .tick 2 ∧
    ((full frame1).tracker.classify 15000).2 = .tick 3 ∧ (⟨58, 1⟩ : Buffer).cnt.toNat < 59 ∧
    ¬ (full frame1).buffer.cnt.toNat < 59 ∧ onesIn 0x9a2d1a60740000 58 36 % 2 = 1 ∧
    onesIn 0x49a2d1260740000 58 36 % 2 ≠ 1 ∧ onesIn 0x49a2d1260740000 35 29 % 2 = 1 ∧
    onesIn 0x49a2d1a70740000 58 36 % 2 ≠ 1 ∧ onesIn 0x49a2d1a70740000 35 29 % 2 ≠ 1 ∧
    onesIn 0x49a2d1a70740000 28 21 % 2 = 1 ∧ onesIn frame1 58 36 % 2 ≠ 1 ∧ onesIn frame1 35 29 % 2 ≠ 1 ∧
    onesIn frame1 28 21 % 2 ≠ 1 := by decide

/-- Accepted with 0, 58, 59 and 63 bits held. -/
theorem witness_AcceptedFirePushesItsLevel :
    [0, 58, 59, 63].all (fun n : Count =>
      let s : State := { waiting with buffer := ⟨n, 0⟩ }
      s.control.run && s.sched.busy && decide (5 = s.sched.tag)) = true := by decide

theorem witness_OtherFiresAreDiscarded : State.reset.control.run = false ∧ locked.sched.busy = false ∧
    (4 : Tag) ≠ waiting.sched.tag := by decide

/-- Every clause of R211: Calibrating with one and two entries, matching and not; a FIRE accepted, and refused with the engine
stopped, with no request, and with another tag; each result of a locked EDGE. -/
theorem witness_ControllerTransitionTable :
    (running ⟨1, 10000, 0, 0⟩).phase = .calibrating ∧ (running ⟨2, 11000, 10000, 0⟩).phase = .calibrating ∧
    (tdiff 11049 ((running ⟨1, 10000, 0, 0⟩).tracker.entry 0) - 1000).natAbs < 50 ∧
    ¬ (tdiff 11050 ((running ⟨1, 10000, 0, 0⟩).tracker.entry 0) - 1000).natAbs < 50 ∧
    (tdiff 12000 ((running ⟨2, 11000, 10000, 0⟩).tracker.entry 0) - 1000).natAbs < 50 ∧
    (tdiff 12000 ((running ⟨2, 11000, 10000, 0⟩).tracker.entry 1) - 2000).natAbs < 50 ∧
    waiting.accepts 5 = true ∧ waiting.accepts 4 = false ∧ locked.accepts 0 = false ∧ State.reset.accepts 0 = false ∧
    State.reset.phase = .idle ∧ (running ⟨0, 0, 0, 0⟩).phase = .armed ∧ locked.phase = .accumulating ∧
    [12950, 13050, 13000, 14000, 15000].map (fun t0 => (locked.tracker.classify t0).2) =
      [.invalid .early, .invalid .lost, .tick 1, .tick 2, .tick 3] := by decide

/-- Lengths 0, 1 and 2, each entry at the ends of its tolerance: 951 and 1049 fit, 950 and 1050 do not. -/
theorem witness_CalibrationAdmitsOnlyTheCadence :
    (running ⟨0, 0, 0, 0⟩).tracker.len.toNat < 3 ∧ (running ⟨1, 10000, 0, 0⟩).tracker.len.toNat < 3 ∧
    (running ⟨2, 11000, 10000, 0⟩).tracker.len.toNat < 3 ∧
    [10951, 11049].all (fun t => decide ((tdiff t ((⟨1, 10000, 0, 0⟩ : Tracker).entry 0) - 1000).natAbs < 50)) = true ∧
    [10950, 11050].all (fun t => decide (¬ (tdiff t ((⟨1, 10000, 0, 0⟩ : Tracker).entry 0) - 1000).natAbs < 50)) = true ∧
    (tdiff 12049 ((⟨2, 11000, 10000, 0⟩ : Tracker).entry 0) - 1000).natAbs < 50 ∧
    (tdiff 12049 ((⟨2, 11000, 10000, 0⟩ : Tracker).entry 1) - 2000).natAbs < 50 ∧
    ¬ (tdiff 12080 ((⟨2, 11040, 10000, 0⟩ : Tracker).entry 1) - 2000).natAbs < 50 := by decide

/-- Both ends of each range of R106; no delta falls under two of them. -/
theorem witness_LockedDeltasArePartitioned : locked.tracker.len = 3 ∧
    [(2147495647, 2147483647), (2147495648, -2147483648), (12950, 950), (12951, 951), (13049, 1049), (13050, 1050),
      (13950, 1950), (13951, 1951), (14049, 2049), (14050, 2050), (14950, 2950), (14951, 2951), (15049, 3049),
      (15050, 3050)].all (fun p : Tick × Int => decide (tdiff p.1 locked.tracker.h0 = p.2)) = true := by decide

theorem witness_NoTickBeforeLock : (⟨2, 11000, 10000, 0⟩ : Tracker).len.toNat < 3 ∧ (⟨0, 0, 0, 0⟩ : Tracker).len = 0 := by
  decide

/-- The four ways out of the locked phase, and the two ways in. -/
theorem witness_OnlyLostOrRestartUnlocks :
    locked.tracker.len = 3 ∧
    [Instr.start, .trkReset, .edge 13050, .trkClassify 13050].all (fun i =>
      (after (exec i locked)).any fun t => decide (t.tracker.len ≠ 3)) = true ∧
    (running ⟨2, 11000, 10000, 0⟩).tracker.len ≠ 3 ∧
    [Instr.edge 12000, .trkClassify 12000].all (fun i =>
      (after (exec i (running ⟨2, 11000, 10000, 0⟩))).any fun t => decide (t.tracker.len = 3)) = true := by decide

theorem witness_BackwardStampsAreNeverTicks : locked.control.run = true ∧ tdiff 11999 locked.tracker.h0 < 0 ∧
    locked.tracker.len = 3 ∧ (running ⟨1, 10000, 0, 0⟩).control.run = true ∧
    tdiff 9999 (running ⟨1, 10000, 0, 0⟩).tracker.h0 < 0 ∧ (running ⟨1, 10000, 0, 0⟩).tracker.len = 1 ∧
    tdiff 10999 (running ⟨2, 11000, 10000, 0⟩).tracker.h0 < 0 ∧ (running ⟨2, 11000, 10000, 0⟩).tracker.len = 2 := by decide

theorem witness_ExtractNeedsAFullFrame : 59 ≤ (full frame1).buffer.cnt.toNat ∧
    59 ≤ ({ locked with buffer := ⟨63, 1⟩ } : State).buffer.cnt.toNat ∧
    ({ locked with buffer := ⟨58, 1⟩ } : State).buffer.cnt.toNat < 59 := by decide

/-- 59 bits and 60 bits; the largest test. -/
theorem witness_BufferRefinesTheAccumulator : (List.replicate 59 true).length ≤ 59 ∧
    ¬ (List.replicate 60 true).length ≤ 59 ∧ 63 ≤ 63 := by decide

theorem witness_ExtractKeepsTheFirstBits : 59 ≤ (List.replicate 59 true).length ∧ 59 ≤ (List.replicate 61 true).length := by
  decide

/-- Each of the five instructions writes the buffer somewhere. -/
theorem witness_OnlyFiveInstructionsWriteTheBuffer :
    [Instr.bufReset, .bufPush true, .start, .edge 14000, .fire 5 true].all (fun i =>
      (after (exec i { waiting with buffer := ⟨3, 5⟩ })).any fun t => decide (t.buffer ≠ ⟨3, 5⟩)) = true := by decide

theorem witness_FrameDecodeChecksThenReads :
    [0x9a2d1a60740000, 0x49a2d1260740000, 0x49a2d1a70740000, frame1].all (fun f : Frame =>
      decide (({ locked with frameBus := some f } : State).frameBus = some f)) = true := by decide

theorem witness_UndrivenBusStillDecodes : locked.frameBus = none := by decide

/-- The first and the last date and time, with the broadcast's own low bits and weekday: the frames of V-DEC-2 and 3. -/
theorem witness_BroadcastFramesDecodeBack :
    (2000 ≤ 2000 ∧ 1 ≤ 1 ∧ 1 ≤ 1) ∧ broadcastFrame ⟨2000, 1, 1, 0, 0⟩ 0x140000 6 = 0x381000140000 ∧
    (2099 ≤ 2099 ∧ 12 ≤ 12 ∧ 31 ≤ 31 ∧ 23 ≤ 23 ∧ 59 ≤ 59) ∧
    broadcastFrame ⟨2099, 12, 31, 23, 59⟩ 0x140000 4 = 0x266531c6b340000 := by decide

/-- A valid frame, with the first and last bit of each span flipped (V-DEC-4 to 6 are three of them). -/
theorem witness_OneFlippedBitNamesItsSpan : decodeFrame frame1 = .ok ⟨2026, 11, 11, 13, 3⟩ ∧
    [21, 28, 29, 35, 36, 58].map (fun i => decodeFrame (frame1 ^^^ (1#59 <<< i))) =
      [.err .parityMinute, .err .parityMinute, .err .parityHour, .err .parityHour, .err .parityDate,
       .err .parityDate] := by decide

/-- V-DEC-10 and 11 (bits 0 and 20 flipped); and weekday bits of one date that leave its date parity the same: two with even
parity, which decode, and two with odd parity, which do not. -/
theorem witness_LowBitsDoNotMatter :
    (List.range' 21 38).all (fun i => frame1.getLsbD i == (0x49a2d1a60740001#59).getLsbD i &&
      frame1.getLsbD i == (0x49a2d1a60640000#59).getLsbD i) = true ∧
    (List.range' 21 38).all (fun i => (decide (42 ≤ i) && decide (i ≤ 44)) ||
      frame1.getLsbD i == (frame1 ^^^ (0b101#59 <<< 42)).getLsbD i) = true ∧
    onesIn frame1 58 36 % 2 = onesIn (frame1 ^^^ (0b101#59 <<< 42)) 58 36 % 2 ∧
    decodeFrame frame1 = .ok ⟨2026, 11, 11, 13, 3⟩ ∧
    onesIn (frame1 ^^^ (0b100#59 <<< 42)) 58 36 % 2 = onesIn (frame1 ^^^ (0b001#59 <<< 42)) 58 36 % 2 ∧
    decodeFrame (frame1 ^^^ (0b100#59 <<< 42)) = .err .parityDate := by decide

/-- The frames with the smallest and the largest fields: every bit 0; every digit bit 1 with the parities to match
(R156: year 2000 and 2165, month 0 and 25, day 0 and 45, hour 0 and 45, minute 0 and 85). -/
theorem witness_SyncWordHoldsEveryTimestamp : decodeFrame 0 = .ok ⟨2000, 0, 0, 0, 0⟩ ∧
    decodeFrame 0x3fffff7ffe00000 = .ok ⟨2165, 25, 45, 45, 85⟩ := by decide

/-- Elapsed times at the ends of the three ranges: 0, 150, 151 and -1. -/
theorem witness_SampleInstantIsPinnedToTheEdge : tdiff 13000 13000 = 0 ∧ tdiff 13150 13000 = 150 ∧
    150 < tdiff 13151 13000 ∧ tdiff 12999 13000 < 0 := by decide

/-- Requests by SCH_SCHEDULE and by EDGE, with a STOP, a START and calibration between them, carry tags 6, 7 and 8. -/
theorem witness_RequestTagsAreDistinct :
    ((execAll [.edge 13000, .stop, .schSchedule 14000, .start, .edge 15000, .edge 16000, .edge 17000, .diag, .edge 18000]
      waiting).map fun t => (requestTags t.outputs, t.sched.tag)) = some ([6, 7, 8], 8) ∧
    [Instr.schSchedule 13000, .schSchedule 14000] = [(13000 : Tick), 14000].map .schSchedule ∧
    (after (exec .start waiting)).isSome = true ∧ (after (exec .stop waiting)).isSome = true := by decide

/-- An outstanding request, then an EDGE that schedules, and an EDGE that does not. -/
theorem witness_LateFireMeetsTheSupersedingTag : waiting.control.run = true ∧ waiting.sched.busy = true ∧
    (after (exec (.edge 13000) waiting)).isSome = true ∧ (waiting.tracker.classify 13000).2 = .tick 1 ∧
    (after (exec (.edge 12500) waiting)).isSome = true ∧ (waiting.tracker.classify 12500).2 = .invalid .early := by decide

theorem witness_OnlyRequestsWriteTheTag : [Instr.schSchedule 13000, .edge 13000].all (fun i =>
    (after (exec i waiting)).any fun t => decide (t.sched.tag ≠ waiting.sched.tag)) = true := by decide

/-- A TICK_ERROR, a SYNC, a BEACON_ERROR and a TICK. -/
theorem witness_OneReportPerStep :
    ((after (exec (.edge 12500) locked)).map fun t => (events t.outputs).map kindOf) = some [3] ∧
    ((after (exec (.edge 14000) (full frame1))).map fun t => (events t.outputs).map kindOf) = some [2] ∧
    ((after (exec (.edge 14000) locked)).map fun t => (events t.outputs).map kindOf) = some [4] ∧
    ((after (exec (.fire 5 true) waiting)).map fun t => (events t.outputs).map kindOf) = some [1] := by decide

theorem witness_OutputsAreNeverReadBack : ∃ t, exec .diag locked = .next t := ⟨_, rfl⟩

/-- A calibrating block with two bits held and a request outstanding, which is not the state of reset. -/
theorem witness_StepKeepsTheInvariant :
    let s : State := { running ⟨2, 11000, 10000, 0⟩ with
      buffer := ⟨2, 1⟩, sched := ⟨true, 5⟩, pending := [.command 0x00002ee000000003 12000] }
    s.Inv ∧ ∃ t, step s = .next t := by
  refine ⟨⟨⟨rfl, rfl⟩, ?_, ?_, ?_⟩, _, rfl⟩
  · intro i h1 h2
    match i, h1, h2 with
    | 2, _, _ => rfl
  · intro _ i j h1 h2
    have hj : j < 2 := h2
    obtain ⟨rfl, rfl⟩ : i = 0 ∧ j = 1 := by omega
    decide
  · intro i hi
    have h : 2 ≤ i := hi
    obtain ⟨k, rfl⟩ : ∃ k, i = k + 2 := ⟨i - 2, by omega⟩
    show (1#59).getLsbD (k + 2) = false
    simp

/-- One legal output of each kind, and a boundary to take. -/
theorem witness_StepKeepsOutputsLegal :
    let s : State := { full frame1 with
      outputs := [.event 0x101, .event 0x07ea0b0b0d030002, .event 0x303, .event 0x104, .timerReq 0x0196,
        .diagOut 0x10237 0x0 0x426800004650 0x3e80]
      pending := [.command 0x000036b000000003 14000] }
    s.outputsLegal ∧ ∃ t, step s = .next t := by
  refine ⟨?_, _, rfl⟩
  intro o ho
  simp only [List.mem_cons, List.not_mem_nil, or_false] at ho
  rcases ho with rfl | rfl | rfl | rfl | rfl | rfl
  · exact .inl (by decide)
  · exact .inr (.inl (by decide))
  · exact .inr (.inr (.inl (by decide)))
  · exact .inr (.inr (.inr (by decide)))
  · show ((0x0196#16).extractLsb' 0 8).toNat ≤ 150
    decide
  · show bitsAt 0x10237 6 2 = 0 ∧ bitsAt 0x10237 22 42 = 0 ∧ bitsAt 0x0 59 5 = 0 ∧ bitsAt 0x3e80 32 32 = 0
    decide

/-- A command and the reset input, each in a block with an outstanding request. -/
theorem witness_OutsideInputsLeaveNoResidue :
    ((Input.command 0x0000000000010504 0).fromOutside ∧ (waiting.sched.busy = true → waiting.control.run = true) ∧
      ∃ t, step { waiting with pending := [.command 0x0000000000010504 0] } = .next t) ∧
    (Input.reset.fromOutside ∧ ∃ t, step { waiting with pending := [.reset] } = .next t) :=
  ⟨⟨trivial, fun _ => rfl, _, rfl⟩, trivial, _, rfl⟩

/-- P3, lines 7 and 8: a FIRE and an EDGE offered to a stopped block; a run of one step. -/
theorem witness_StoppedEngineStaysSilent :
    let s : State := { locked with
      control := ⟨false, false, false⟩, pending := [.command 0x0000000000010104 0, .command 0x000036b000000003 0, .reset] }
    s.control.run = false ∧ (∀ x ∈ s.pending, x.startsNothing) ∧ ∃ t, step s = .next t ∧ Reaches s t := by
  refine ⟨rfl, ?_, _, rfl, .step rfl (.refl _)⟩
  intro x hx
  simp only [List.mem_cons, List.not_mem_nil, or_false] at hx
  rcases hx with rfl | rfl | rfl
  · show decodeWord 0x0000000000010104 ≠ .ok .start
    decide
  · show decodeWord 0x000036b000000003 ≠ .ok .start
    decide
  · trivial

/-- A running, locked, empty block with one second and the boundary after it on offer, after 1000 and after 2000 ms; and a
whole frame of 59 seconds. -/
theorem witness_CleanMinuteReportsItsFrame :
    locked.control.run = true ∧ locked.tracker.len = 3 ∧ locked.buffer = ⟨0, 0⟩ ∧ [true] ≠ [] ∧ [true].length ≤ 59 ∧
    (∀ i, i < 59 → (1#59).getLsbD i = [true].getD i false) ∧
    seconds (12000 + BitVec.ofNat 32 (1000 * 1)) 0 [true] =
      [.command 0x000032c800000003 13000, .command 0x0000000000010104 13000] ∧
    seconds (12000 + BitVec.ofNat 32 (1000 * 2)) 0 [true] =
      [.command 0x000036b000000003 14000, .command 0x0000000000010104 14000] ∧
    (∀ i, i < 59 → frame1.getLsbD i = ((List.range 59).map frame1.getLsbD).getD i false) ∧
    ((List.range 59).map frame1.getLsbD).length = 59 := by decide

end Sys2Proof.Tests
end

section
/-! PROOFS. The statements of `10_state.md`: which instructions write which unit's registers, the invariant of the
registers (R25, R27, R28, R30), the refinement of the source's accumulator (R31), and what is not read or left behind
(R20, R32, R35). -/

namespace Sys2Proof.Machine

/-! ### FRM_DECODE, by what drives the frame bus -/

theorem execFrmDecode_driven (s : State) (f : Frame) (h : s.frameBus = some f) :
    execFrmDecode s = .next (s.withResult (some (.decoded (decodeFrame f)))) := by
  simp only [execFrmDecode, State.afterBusRead, State.busFrame, h]

theorem execFrmDecode_undriven (s : State) (h : s.frameBus = none) :
    execFrmDecode s =
      .next (s.useFreeValue.withResult (some (.decoded (decodeFrame (Config.undrivenFrame s.freeCount))))) := by
  simp only [execFrmDecode, State.afterBusRead, State.busFrame, h]

/-- FRM_DECODE writes the result bus and the count of free values, and nothing else (R154). -/
theorem execFrmDecode_cases (s t : State) (h : execFrmDecode s = .next t) :
    ∃ n d, t = { s with freeCount := n, resultBus := some (.decoded d) } := by
  obtain hf | ⟨f, hf⟩ := Option.eq_none_or_eq_some s.frameBus
  · rw [execFrmDecode_undriven s hf] at h
    cases h
    exact ⟨_, _, rfl⟩
  · rw [execFrmDecode_driven s f hf] at h
    cases h
    exact ⟨_, _, rfl⟩

/-! ### The writers of each unit's registers -/

/-- The control bits are written only by START and STOP (R25). -/
theorem exec_control_cases (i : Instr) (s t : State) (h : exec i s = .next t) :
    t.control = s.control ∨ (i = .start ∧ t.control = ⟨true, true, true⟩) ∨
    (i = .stop ∧ t.control = ⟨false, false, false⟩) := by
  cases i with
  | start => cases h; exact .inr (.inl ⟨rfl, rfl⟩)
  | stop => cases h; exact .inr (.inr ⟨rfl, rfl⟩)
  | edge t0 =>
    obtain ⟨-, rfl⟩ | ⟨_, -, -, rfl⟩ | ⟨_, -, -, -, rfl⟩ | ⟨_, -, -, -, rfl⟩ := execEdge_cases s t t0 h <;>
      exact .inl rfl
  | fire tag level =>
    obtain ⟨-, rfl⟩ | ⟨-, -, -, rfl⟩ := execFire_cases s t tag level h <;> exact .inl rfl
  | frmDecode =>
    obtain ⟨_, _, rfl⟩ := execFrmDecode_cases s t h
    exact .inl rfl
  | diag | schSchedule _ | trkReset | trkClassify _ | bufReset | bufPush _ | bufIsComplete _ | bufExtract | parFold _ =>
    cases h
    exact .inl rfl

/-- The history is written only by START, TRK_RESET, TRK_CLASSIFY and an EDGE taken while running (R102, R103, R201). -/
theorem exec_tracker_cases (i : Instr) (s t : State) (h : exec i s = .next t) :
    t.tracker = s.tracker ∨ (t.tracker = Tracker.cleared ∧ (i = .start ∨ i = .trkReset)) ∨
    ∃ t0, t.tracker = (s.tracker.classify t0).1 ∧ (i = .trkClassify t0 ∨ (i = .edge t0 ∧ s.control.run = true)) := by
  cases i with
  | start => cases h; exact .inr (.inl ⟨rfl, .inl rfl⟩)
  | trkReset => cases h; exact .inr (.inl ⟨rfl, .inr rfl⟩)
  | trkClassify t0 => cases h; exact .inr (.inr ⟨t0, rfl, .inl rfl⟩)
  | edge t0 =>
    obtain ⟨-, rfl⟩ | ⟨_, hr, -, rfl⟩ | ⟨_, hr, -, -, rfl⟩ | ⟨_, hr, -, -, rfl⟩ := execEdge_cases s t t0 h
    · exact .inl rfl
    all_goals exact .inr (.inr ⟨t0, rfl, .inr ⟨rfl, hr⟩⟩)
  | fire tag level =>
    obtain ⟨-, rfl⟩ | ⟨-, -, -, rfl⟩ := execFire_cases s t tag level h <;> exact .inl rfl
  | frmDecode =>
    obtain ⟨_, _, rfl⟩ := execFrmDecode_cases s t h
    exact .inl rfl
  | stop | diag | schSchedule _ | bufReset | bufPush _ | bufIsComplete _ | bufExtract | parFold _ =>
    cases h
    exact .inl rfl

/-- The buffer is emptied by BUF_RESET, START and a boundary EDGE, and takes a bit by BUF_PUSH and an accepted FIRE
(R137). -/
theorem exec_buffer_cases (i : Instr) (s t : State) (h : exec i s = .next t) :
    t.buffer = s.buffer ∨
    (t.buffer = Buffer.empty ∧ (i = .bufReset ∨ i = .start ∨
      ∃ t0 n, i = .edge t0 ∧ s.control.run = true ∧ (s.tracker.classify t0).2 = .tick n ∧ 2 ≤ n)) ∨
    ∃ b, t.buffer = s.buffer.push b ∧
      (i = .bufPush b ∨ (i = .fire s.sched.tag b ∧ s.control.run = true ∧ s.sched.busy = true)) := by
  cases i with
  | start => cases h; exact .inr (.inl ⟨rfl, .inr (.inl rfl)⟩)
  | bufReset => cases h; exact .inr (.inl ⟨rfl, .inl rfl⟩)
  | bufPush b => cases h; exact .inr (.inr ⟨b, rfl, .inl rfl⟩)
  | edge t0 =>
    obtain ⟨-, rfl⟩ | ⟨_, -, -, rfl⟩ | ⟨_, -, -, -, rfl⟩ | ⟨n, hr, hc, hn, rfl⟩ := execEdge_cases s t t0 h
    · exact .inl rfl
    · exact .inl rfl
    · exact .inl rfl
    · exact .inr (.inl ⟨rfl, .inr (.inr ⟨t0, n, rfl, hr, hc, hn⟩)⟩)
  | fire tag level =>
    obtain ⟨-, rfl⟩ | ⟨hr, hb, rfl, rfl⟩ := execFire_cases s t tag level h
    · exact .inl rfl
    · exact .inr (.inr ⟨level, rfl, .inr ⟨rfl, hr, hb⟩⟩)
  | frmDecode =>
    obtain ⟨_, _, rfl⟩ := execFrmDecode_cases s t h
    exact .inl rfl
  | stop | diag | schSchedule _ | trkReset | trkClassify _ | bufIsComplete _ | bufExtract | parFold _ =>
    cases h
    exact .inl rfl

/-- The scheduler is written by a request, which takes the next tag (R181), and by START, STOP and an accepted FIRE, which
keep the tag (R183, R201, R202). -/
theorem exec_sched_cases (i : Instr) (s t : State) (h : exec i s = .next t) :
    t.sched = s.sched ∨ t.sched = ⟨false, s.sched.tag⟩ ∨
    (t.sched = ⟨true, s.sched.tag + 1⟩ ∧
      ∃ t0, i = .schSchedule t0 ∨ (i = .edge t0 ∧ s.control.run = true ∧ ∃ n, (s.tracker.classify t0).2 = .tick n)) := by
  cases i with
  | start | stop => cases h; exact .inr (.inl rfl)
  | schSchedule t0 => cases h; exact .inr (.inr ⟨rfl, t0, .inl rfl⟩)
  | edge t0 =>
    obtain ⟨-, rfl⟩ | ⟨_, -, -, rfl⟩ | ⟨n, hr, hc, -, rfl⟩ | ⟨n, hr, hc, -, rfl⟩ := execEdge_cases s t t0 h
    · exact .inl rfl
    · exact .inl rfl
    all_goals exact .inr (.inr ⟨rfl, t0, .inr ⟨rfl, hr, n, hc⟩⟩)
  | fire tag level =>
    obtain ⟨-, rfl⟩ | ⟨-, -, -, rfl⟩ := execFire_cases s t tag level h
    · exact .inl rfl
    · exact .inr (.inl rfl)
  | frmDecode =>
    obtain ⟨_, _, rfl⟩ := execFrmDecode_cases s t h
    exact .inl rfl
  | diag | trkReset | trkClassify _ | bufReset | bufPush _ | bufIsComplete _ | bufExtract | parFold _ =>
    cases h
    exact .inl rfl

/-! ### R27 and R28: the history -/

theorem Tracker.entry_prepend_succ (tr : Tracker) (t : Tick) (len : BitVec 2) (i : Nat) (hi : i < 2) :
    (tr.prepend t len).entry (i + 1) = tr.entry i := by
  obtain rfl | rfl : i = 0 ∨ i = 1 := by omega
  · rfl
  · rfl

theorem Tracker.toNat_len_add_one (tr : Tracker) (h : tr.len.toNat < 3) : (tr.len + 1).toNat = tr.len.toNat + 1 := by
  have e : (tr.len + 1).toNat = (tr.len.toNat + 1) % 4 := BitVec.toNat_add _ _
  omega

/-- The history after a classification: kept, cleared, prepended while locked, or grown by an entry that fits the cadence
(R104 to R107). -/
theorem Tracker.classify_fst_cases (tr : Tracker) (t : Tick) :
    (tr.classify t).1 = tr ∨ (tr.classify t).1 = Tracker.cleared ∨
    (tr.len = 3 ∧ (tr.classify t).1 = tr.prepend t 3) ∨
    (tr.len.toNat < 3 ∧ cadenceMatches t 0 tr.valid = true ∧ (tr.classify t).1 = tr.prepend t (tr.len + 1)) := by
  cases hc : (tr.classify t).2 with
  | tick n =>
    obtain ⟨hl, -, e, -⟩ := tr.classify_tick t n hc
    exact .inr (.inr (.inl ⟨hl, e⟩))
  | invalid r =>
    obtain ⟨-, hl, e, hm⟩ | ⟨-, -, -, e, -⟩ | ⟨-, -, e, -⟩ | ⟨-, -, e, -⟩ := tr.classify_invalid t r hc
    · exact .inr (.inr (.inr ⟨tr.len_lt_of_ne hl, hm, e⟩))
    · exact .inr (.inl e)
    · exact .inl e
    · exact .inr (.inl e)

theorem Tracker.cleared_zeroAbove : Tracker.cleared.zeroAbove := by
  intro i _ hi
  obtain rfl | rfl | rfl : i = 0 ∨ i = 1 ∨ i = 2 := by omega
  all_goals rfl

theorem Tracker.cleared_cadenced : Tracker.cleared.cadenced :=
  fun _ _ _ _ hj => absurd hj (Nat.not_lt_zero _)

/-- With three entries held there is none above them. -/
theorem Tracker.zeroAbove_of_len_three (tr : Tracker) (h : tr.len = 3) : tr.zeroAbove := by
  intro i h1 h2
  rw [h] at h1
  exact absurd h2 (Nat.not_lt.2 h1)

/-- A locked history has no bound to keep (R28). -/
theorem Tracker.cadenced_of_len_three (tr : Tracker) (h : tr.len = 3) : tr.cadenced := by
  intro hl
  simp [h] at hl

/-- A new entry moves the zero entries one place up. -/
theorem Tracker.prepend_zeroAbove (tr : Tracker) (t : Tick) (hl : tr.len.toNat < 3) (h : tr.zeroAbove) :
    (tr.prepend t (tr.len + 1)).zeroAbove := by
  intro i h1 h2
  have h1 : (tr.len + 1).toNat ≤ i := h1
  rw [tr.toNat_len_add_one hl] at h1
  obtain ⟨k, rfl⟩ : ∃ k, i = k + 1 := ⟨i - 1, by omega⟩
  rw [tr.entry_prepend_succ t _ k (by omega)]
  exact h k (by omega) (by omega)

/-- The pairs of the new history are the new entry with an old one, which the calibration has compared (R104), and the old
pairs. -/
theorem Tracker.prepend_cadenced (tr : Tracker) (t : Tick) (hl : tr.len.toNat < 3)
    (hm : cadenceMatches t 0 tr.valid = true) (h : tr.cadenced) : (tr.prepend t (tr.len + 1)).cadenced := by
  intro hl' i j hij hj
  have hl' : (tr.len + 1).toNat < 3 := hl'
  have hj : j < (tr.len + 1).toNat := hj
  rw [tr.toNat_len_add_one hl] at hl' hj
  obtain ⟨b, rfl⟩ : ∃ b, j = b + 1 := ⟨j - 1, by omega⟩
  rw [tr.entry_prepend_succ t _ b (by omega)]
  cases i with
  | zero =>
    have hb := (cadenceMatches_valid tr t hl).1 hm b (by omega)
    simpa [Tracker.entry, Tracker.prepend] using hb
  | succ a =>
    rw [tr.entry_prepend_succ t _ a (by omega), Nat.add_sub_add_right]
    exact h hl a b (by omega) (by omega)

theorem Tracker.classify_zeroAbove (tr : Tracker) (t : Tick) (h : tr.zeroAbove) : (tr.classify t).1.zeroAbove := by
  obtain e | e | ⟨-, e⟩ | ⟨hl, -, e⟩ := tr.classify_fst_cases t <;> rw [e]
  · exact h
  · exact Tracker.cleared_zeroAbove
  · exact Tracker.zeroAbove_of_len_three _ rfl
  · exact tr.prepend_zeroAbove t hl h

theorem Tracker.classify_cadenced (tr : Tracker) (t : Tick) (h : tr.cadenced) : (tr.classify t).1.cadenced := by
  obtain e | e | ⟨-, e⟩ | ⟨hl, hm, e⟩ := tr.classify_fst_cases t <;> rw [e]
  · exact h
  · exact Tracker.cleared_cadenced
  · exact Tracker.cadenced_of_len_three _ rfl
  · exact tr.prepend_cadenced t hl hm h

/-! ### R30: the buffer -/

theorem Buffer.empty_zeroAbove : Buffer.empty.zeroAbove := fun _ _ => BitVec.getLsbD_zero

/-- A push writes the one bit that its count then covers (R131). -/
theorem Buffer.push_zeroAbove (b : Buffer) (bit : Bool) (h : b.zeroAbove) : (b.push bit).zeroAbove := by
  intro i hi
  by_cases hlt : i < 59
  · rw [b.push_cnt] at hi
    rw [b.push_bits bit i hlt, if_neg (by omega)]
    exact h i (by omega)
  · exact BitVec.getLsbD_of_ge _ _ (by omega)

/-! ### The invariant -/

/-- Every instruction keeps the invariant: each unit's writers keep that unit's part. -/
theorem exec_keeps_inv (i : Instr) (s t : State) (hs : s.Inv) (h : exec i s = .next t) : t.Inv where
  control := by
    obtain e | ⟨-, e⟩ | ⟨-, e⟩ := exec_control_cases i s t h <;> rw [e]
    · exact hs.control
    · exact ⟨rfl, rfl⟩
    · exact ⟨rfl, rfl⟩
  history := by
    obtain e | ⟨e, -⟩ | ⟨t0, e, -⟩ := exec_tracker_cases i s t h <;> rw [e]
    · exact hs.history
    · exact Tracker.cleared_zeroAbove
    · exact s.tracker.classify_zeroAbove t0 hs.history
  cadence := by
    obtain e | ⟨e, -⟩ | ⟨t0, e, -⟩ := exec_tracker_cases i s t h <;> rw [e]
    · exact hs.cadence
    · exact Tracker.cleared_cadenced
    · exact s.tracker.classify_cadenced t0 hs.cadence
  buffer := by
    obtain e | ⟨e, -⟩ | ⟨b, e, -⟩ := exec_buffer_cases i s t h <;> rw [e]
    · exact hs.buffer
    · exact Buffer.empty_zeroAbove
    · exact s.buffer.push_zeroAbove b hs.buffer

/-- The invariant speaks of the registers alone. -/
theorem State.Inv.of_sameRegisters {s t : State} (hs : s.Inv) (h : t.sameRegisters s) : t.Inv := by
  obtain ⟨hc, ht, hb, -⟩ := h
  exact ⟨hc ▸ hs.control, ht ▸ hs.history, ht ▸ hs.cadence, hb ▸ hs.buffer⟩

theorem State.reset_inv : State.reset.Inv where
  control := ⟨rfl, rfl⟩
  history := Tracker.cleared_zeroAbove
  cadence := Tracker.cleared_cadenced
  buffer := Buffer.empty_zeroAbove

/-- Settles O54: a step waits, resets, or performs an instruction, and each keeps the invariant. -/
theorem stepKeepsTheInvariant : Obligations.StepKeepsTheInvariant := by
  intro s t hs h
  obtain ⟨-, rfl⟩ | ⟨rest, -, rfl⟩ | ⟨_, now, rest, i, -, -, -, he⟩ | ⟨_, now, rest, i, -, -, -, he⟩ := step_cases s t h
  · exact hs
  · exact State.reset_inv.of_sameRegisters ⟨rfl, rfl, rfl, rfl⟩
  · exact exec_keeps_inv i (s.beginCommand now rest) t (hs.of_sameRegisters ⟨rfl, rfl, rfl, rfl⟩) he
  · exact exec_keeps_inv i (s.beginMicroOp now rest) t (hs.of_sameRegisters ⟨rfl, rfl, rfl, rfl⟩) he

/-- Settles O53. -/
theorem resetMeetsTheInvariant : Obligations.ResetMeetsTheInvariant :=
  ⟨State.reset_inv, fun _ ho => absurd ho List.not_mem_nil⟩

/-- Settles O11: the step that takes the reset input applies it. -/
theorem resetRegisterValues : Obligations.ResetRegisterValues := by
  refine ⟨⟨rfl, rfl, rfl, rfl, rfl⟩, fun s rest hp => ⟨s.applyReset rest, ?_, rfl, rfl, rfl, rfl, rfl, rfl⟩⟩
  simp only [step, hp]

/-- Settles O50: of the three ways to write the scheduler only a request changes the tag. -/
theorem onlyRequestsWriteTheTag : Obligations.OnlyRequestsWriteTheTag := by
  intro i s t h hne
  obtain e | e | ⟨e, hi⟩ := exec_sched_cases i s t h
  · exact absurd (congrArg Scheduler.tag e) hne
  · exact absurd (congrArg Scheduler.tag e) hne
  · exact ⟨congrArg Scheduler.tag e, congrArg Scheduler.busy e, hi⟩

/-! ### R31: the source's accumulator -/

theorem accumulator_append_singleton (bits : List Bool) (b : Bool) :
    accumulator (bits ++ [b]) = 2 * accumulator bits + b.toNat := by
  simp [accumulator]

theorem pushAll_append_singleton (bits : List Bool) (b : Bool) : pushAll (bits ++ [b]) = (pushAll bits).push b := by
  simp [pushAll]

/-- The sentinel's power of two and each pushed bit at its weight. -/
theorem accumulator_eq_sum (bits : List Bool) : accumulator bits = 2 ^ bits.length +
    ∑ i ∈ Finset.range bits.length, (bits.getD i false).toNat * 2 ^ (bits.length - 1 - i) := by
  induction bits using List.reverseRecOn with
  | nil => rfl
  | append_singleton bits b ih =>
    have old_weights_double : ∀ i ∈ Finset.range bits.length,
        ((bits ++ [b]).getD i false).toNat * 2 ^ (bits.length + 1 - 1 - i) =
          2 * ((bits.getD i false).toNat * 2 ^ (bits.length - 1 - i)) := by
      intro i hi
      have hi : i < bits.length := Finset.mem_range.1 hi
      rw [List.getD_append _ _ _ _ hi, (by omega : bits.length + 1 - 1 - i = bits.length - 1 - i + 1), pow_succ]
      ring
    rw [accumulator_append_singleton, ih, List.length_append, List.length_singleton, Finset.sum_range_succ,
      Finset.sum_congr rfl old_weights_double, ← Finset.mul_sum, List.getD_append_right _ _ _ _ le_rfl]
    simp only [Nat.sub_self, List.getD_cons_zero, Nat.add_sub_cancel, pow_zero, mul_one]
    ring

/-- The magnitude of the accumulator is the number of pushes (R133). -/
theorem accumulator_bounds (bits : List Bool) :
    2 ^ bits.length ≤ accumulator bits ∧ accumulator bits < 2 ^ (bits.length + 1) := by
  induction bits using List.reverseRecOn with
  | nil => decide
  | append_singleton bits b ih =>
    have hb := b.toNat_le
    rw [accumulator_append_singleton, List.length_append, List.length_singleton, pow_succ, pow_succ 2 (bits.length + 1)]
    omega

theorem two_pow_le_accumulator_iff (bits : List Bool) (m : Nat) : 2 ^ m ≤ accumulator bits ↔ m ≤ bits.length := by
  obtain ⟨hlo, hhi⟩ := accumulator_bounds bits
  constructor
  · intro h
    have : m < bits.length + 1 := (Nat.pow_lt_pow_iff_right one_lt_two).1 (h.trans_lt hhi)
    omega
  · intro h
    exact (Nat.pow_le_pow_right two_pos h).trans hlo

/-- The count after any number of pushes (R29). -/
theorem pushAll_cnt (bits : List Bool) : (pushAll bits).cnt.toNat = min bits.length 63 := by
  induction bits using List.reverseRecOn with
  | nil => rfl
  | append_singleton bits b ih =>
    rw [pushAll_append_singleton, Buffer.push_cnt, ih, List.length_append, List.length_singleton]
    omega

/-- Bit `i` is the `i`-th pushed bit, and 0 when there was none (R30). -/
theorem pushAll_bits (bits : List Bool) (i : Nat) (hi : i < 59) :
    (pushAll bits).bits.getLsbD i = bits.getD i false := by
  induction bits using List.reverseRecOn with
  | nil => exact BitVec.getLsbD_zero
  | append_singleton bits b ih =>
    rw [pushAll_append_singleton, Buffer.push_bits _ _ _ hi, pushAll_cnt, ih]
    obtain hlt | heq | hgt := lt_trichotomy i bits.length
    · rw [if_neg (by omega), List.getD_append _ _ _ _ hlt]
    · rw [if_pos (by omega), heq, List.getD_append_right _ _ _ _ le_rfl]
      simp
    · rw [if_neg (by omega), List.getD_eq_default _ _ hgt.le, List.getD_eq_default _ _ (by simpa using hgt)]

/-- Settles O35: the accumulator is its sentinel and weighted bits, and its magnitude is the number of pushes. -/
theorem bufferRefinesTheAccumulator : Obligations.BufferRefinesTheAccumulator := by
  intro bits
  refine ⟨fun hn => ⟨accumulator_eq_sum bits, ?_, fun i hi => pushAll_bits bits i (by omega)⟩, fun m hm => ?_⟩
  · rw [pushAll_cnt]
    omega
  · rw [two_pow_le_accumulator_iff, Buffer.isComplete, pushAll_cnt, decide_eq_true_iff]
    omega

/-! ### R20: what has been presented is not read -/

/-- After its classification an EDGE appends the same words, and does the same otherwise, whatever has been presented. -/
theorem State.afterClassify_appends (s : State) (t0 : Tick) (c : Classification) :
    ∃ new, (s.afterClassify t0 c).outputs = s.outputs ++ new ∧ ∀ before,
      State.afterClassify { s with outputs := before } t0 c = { s.afterClassify t0 c with outputs := before ++ new } := by
  cases c with
  | invalid r => exact ⟨_, rfl, fun _ => rfl⟩
  | tick n =>
    cases hb : boundary n with
    | false =>
      simp only [State.afterClassify, hb]
      exact ⟨_, rfl, fun _ => rfl⟩
    | true =>
      simp only [State.afterClassify, hb, if_true, State.schedule_eq, State.closeFrame_eq, List.append_assoc]
      exact ⟨_, rfl, fun _ => rfl⟩

/-- What `f` appends to the outputs, and what it does otherwise, does not depend on the outputs before (R20, R69). -/
def AppendsOutputs (f : State → Host.Outcome State Fault Refusal) : Prop :=
  ∀ (s t : State) (before : List Output), f s = .next t →
    ∃ new, t.outputs = s.outputs ++ new ∧ f { s with outputs := before } = .next { t with outputs := before ++ new }

/-- A step that presents nothing appends no output. -/
theorem appends_nothing {f : State → Host.Outcome State Fault Refusal} {s t : State} {before : List Output}
    (ho : t.outputs = s.outputs) (hb : f { s with outputs := before } = .next { t with outputs := before }) :
    ∃ new, t.outputs = s.outputs ++ new ∧
      f { s with outputs := before } = .next { t with outputs := before ++ new } :=
  ⟨[], by rw [ho, List.append_nil], by rw [hb, List.append_nil]⟩

theorem execEdge_appendsOutputs (t0 : Tick) : AppendsOutputs (execEdge t0) := by
  intro s t before h
  cases hr : s.control.run with
  | false =>
    rw [execEdge_idle t0 s hr] at h
    cases h
    exact appends_nothing rfl (execEdge_idle t0 { s with outputs := before } hr)
  | true =>
    rw [execEdge_running t0 s hr] at h
    cases h
    obtain ⟨new, ho, hb⟩ :=
      (s.withTracker (s.tracker.classify t0).1).afterClassify_appends t0 (s.tracker.classify t0).2
    exact ⟨new, ho, (execEdge_running t0 { s with outputs := before } hr).trans (congrArg _ (hb before))⟩

theorem execFire_appendsOutputs (tag : Tag) (level : Bool) : AppendsOutputs (execFire tag level) := by
  intro s t before h
  cases ha : s.accepts tag with
  | false =>
    rw [execFire_discarded tag level s ha] at h
    cases h
    exact appends_nothing rfl (execFire_discarded tag level { s with outputs := before } ha)
  | true =>
    rw [execFire_accepted tag level s ha] at h
    cases h
    exact ⟨_, rfl, execFire_accepted tag level { s with outputs := before } ha⟩

theorem execFrmDecode_appendsOutputs : AppendsOutputs execFrmDecode := by
  intro s t before h
  obtain hf | ⟨f, hf⟩ := Option.eq_none_or_eq_some s.frameBus
  · rw [execFrmDecode_undriven s hf] at h
    cases h
    exact appends_nothing rfl (execFrmDecode_undriven { s with outputs := before } hf)
  · rw [execFrmDecode_driven s f hf] at h
    cases h
    exact appends_nothing rfl (execFrmDecode_driven { s with outputs := before } f hf)

/-- Of the instructions with one outcome only DIAG and SCH_SCHEDULE append an output. -/
theorem exec_appendsOutputs (i : Instr) : AppendsOutputs (exec i) := by
  intro s t before h
  cases i with
  | edge t0 => exact execEdge_appendsOutputs t0 s t before h
  | fire tag level => exact execFire_appendsOutputs tag level s t before h
  | frmDecode => exact execFrmDecode_appendsOutputs s t before h
  | diag | schSchedule _ =>
    cases h
    exact ⟨_, rfl, rfl⟩
  | start | stop | trkReset | trkClassify _ | bufReset | bufPush _ | bufIsComplete _ | bufExtract | parFold _ =>
    cases h
    exact appends_nothing (f := exec _) rfl rfl

/-- Settles O52: what any instruction appends, and does otherwise, does not depend on the outputs before. -/
theorem outputsAreNeverReadBack : Obligations.OutputsAreNeverReadBack :=
  fun i => exec_appendsOutputs i

/-! ### R32 and R35: what a command leaves -/

/-- No command drives a bus, and none takes an input besides its own word (R20, R35). -/
theorem exec_command_keeps_buses_and_pending (i : Instr) (s t : State) (hf : i.format = .cmd) (h : exec i s = .next t) :
    t.frameBus = s.frameBus ∧ t.resultBus = s.resultBus ∧ t.pending = s.pending := by
  cases i with
  | start | stop | diag => cases h; exact ⟨rfl, rfl, rfl⟩
  | edge t0 =>
    obtain ⟨-, rfl⟩ | ⟨_, -, -, rfl⟩ | ⟨_, -, -, -, rfl⟩ | ⟨_, -, -, -, rfl⟩ := execEdge_cases s t t0 h <;>
      exact ⟨rfl, rfl, rfl⟩
  | fire tag level =>
    obtain ⟨-, rfl⟩ | ⟨-, -, -, rfl⟩ := execFire_cases s t tag level h <;> exact ⟨rfl, rfl, rfl⟩
  | _ => cases hf

/-- A command makes a request only while the engine runs, and STOP forgets the request (R32, R202). -/
theorem exec_command_busyOnlyWhileRunning (i : Instr) (s t : State) (hf : i.format = .cmd)
    (hs : s.sched.busy = true → s.control.run = true) (h : exec i s = .next t) :
    t.sched.busy = true → t.control.run = true := by
  cases i with
  | start => cases h; exact fun _ => rfl
  | stop => cases h; exact nofun
  | diag => cases h; exact hs
  | edge t0 =>
    obtain ⟨-, rfl⟩ | ⟨_, hr, -, rfl⟩ | ⟨_, hr, -, -, rfl⟩ | ⟨_, hr, -, -, rfl⟩ := execEdge_cases s t t0 h
    · exact hs
    all_goals exact fun _ => hr
  | fire tag level =>
    obtain ⟨-, rfl⟩ | ⟨hr, -, -, rfl⟩ := execFire_cases s t tag level h
    · exact hs
    · exact fun _ => hr
  | _ => cases hf

/-- Settles O56: the reset input clears the busy bit and the buses, a command begins and ends with empty buses. -/
theorem outsideInputsLeaveNoResidue : Obligations.OutsideInputsLeaveNoResidue := by
  intro s t x rest hp hx hs h
  obtain ⟨e, -⟩ | ⟨rest', e, rfl⟩ | ⟨w, now, rest', i, e, -, hf, he⟩ | ⟨w, now, rest', i, e, -, -, -⟩ := step_cases s t h <;>
    rw [hp] at e <;> cases e
  · exact ⟨nofun, rfl, rfl, rfl⟩
  · exact ⟨exec_command_busyOnlyWhileRunning i (s.beginCommand now rest) t hf hs he,
      exec_command_keeps_buses_and_pending i _ t hf he⟩
  · exact hx.elim

end Sys2Proof.Machine
end

section
/-! PROOFS. The statement of `20_memory.md`: the order of a word's bytes on a byte-wide channel (R52). -/

namespace Sys2Proof

/-! ### R52: a word is its fields, each at its place -/

/-- The lowest `a` bits of a word and the field of `b` bits above them, each at its place, are the lowest `a + b` bits. -/
theorem lowBits_or_nextField {n : Nat} (w : BitVec n) (a b : Nat) :
    (w.extractLsb' 0 a).setWidth n ||| (w.extractLsb' a b).setWidth n <<< a = (w.extractLsb' 0 (a + b)).setWidth n := by
  apply BitVec.eq_of_getLsbD_eq
  intro i hi
  obtain hlow | hnext := Nat.lt_or_ge i a
  · simp [hlow, Nat.lt_add_right b hlow]
  · obtain ⟨j, rfl⟩ := Nat.exists_eq_add_of_le hnext
    simp [hi]

/-- `lowBits_or_nextField` for the fields of a 64-bit word. -/
theorem place_lowBits_or_nextField (w : Word) (a b : Nat) :
    place (bitsAt w 0 a) 0 ||| place (bitsAt w a b) a = place (bitsAt w 0 (a + b)) 0 := by
  simpa only [place, bitsAt, BitVec.shiftLeft_zero] using lowBits_or_nextField w a b

theorem place_bitsAt_whole (w : Word) : place (bitsAt w 0 64) 0 = w := by
  simp [place, bitsAt]

/-! ### R52: the bytes of a word, least significant first -/

theorem wordBytes_eq_map (w : Word) : wordBytes w = (List.range 8).map fun k => w.extractLsb' (8 * k) 8 := rfl

theorem timerWordBytes_eq_map (w : TimerWord) :
    timerWordBytes w = (List.range 2).map fun k => w.extractLsb' (8 * k) 8 := rfl

/-- The bytes of a word make the word: from byte 0 up, each byte lengthens the field of the bytes below it by eight bits. -/
theorem wordOfBytes_bitsAt (w : Word) :
    wordOfBytes (bitsAt w 0 8) (bitsAt w 8 8) (bitsAt w 16 8) (bitsAt w 24 8) (bitsAt w 32 8) (bitsAt w 40 8)
      (bitsAt w 48 8) (bitsAt w 56 8) = w := by
  simp only [wordOfBytes, place_lowBits_or_nextField, Nat.reduceAdd, place_bitsAt_whole]

theorem timerWordOfBytes_extractLsb' (w : TimerWord) :
    timerWordOfBytes (w.extractLsb' 0 8) (w.extractLsb' 8 8) = w := by
  rw [timerWordOfBytes, BitVec.or_comm, lowBits_or_nextField]
  simp

/-- Settles O8: byte `k` is the field from bit `8k` on, and the fields joined in that order are the word. -/
theorem bytesAreLeastSignificantFirst : Obligations.BytesAreLeastSignificantFirst := by
  refine ⟨fun w => ⟨fun k hk => ?_, rfl, ?_⟩, fun w => ⟨fun k hk => ?_, rfl, ?_⟩⟩
  · simp only [wordBytes_eq_map, List.getElem_map, List.getElem_range]
  · rintro _ _ _ _ _ _ _ _ ⟨⟩
    exact wordOfBytes_bitsAt w
  · simp only [timerWordBytes_eq_map, List.getElem_map, List.getElem_range]
  · rintro _ _ ⟨⟩
    exact timerWordOfBytes_extractLsb' w

end Sys2Proof
end

section
/-! PROOFS. The statements of `30_encoding.md`: a word decodes to an instruction exactly when it is that instruction's word
(R61 to R63, R65), which words are refused (R66), the assembler lines and SECOND (R67, R68), the SYNC word's timestamp (R71)
and the formats of every output word (R70 to R75). -/

namespace Sys2Proof

/-! ### Fields of a word as masks -/

/-- The word with ones in the field of `len` bits from bit `lo` on, zeros elsewhere. -/
def fieldMask (lo len : Nat) : Word := place (BitVec.allOnes len) lo

theorem getLsbD_fieldMask (lo len j : Nat) :
    (fieldMask lo len).getLsbD j = (decide (j < 64) && decide (lo ≤ j) && decide (j - lo < len)) := by
  rw [fieldMask, getLsbD_place, BitVec.getLsbD_allOnes]

/-- A field read and placed back is the word masked to the field. -/
theorem place_bitsAt (w : Word) (lo len : Nat) : place (bitsAt w lo len) lo = w &&& fieldMask lo len := by
  apply BitVec.eq_of_getLsbD_eq
  intro j hj
  rw [getLsbD_place, getLsbD_bitsAt, BitVec.getLsbD_and, getLsbD_fieldMask]
  by_cases hlo : lo ≤ j
  · rw [Nat.add_sub_cancel' hlo]
    ac_rfl
  · simp [hlo]

theorem place_ofBool_flagAt (w : Word) (i : Nat) : place (BitVec.ofBool (flagAt w i)) i = w &&& fieldMask i 1 := by
  rw [← place_bitsAt]
  congr 1
  apply BitVec.eq_of_getLsbD_eq
  intro j hj
  obtain rfl : j = 0 := by omega
  rw [getLsbD_bitsAt]
  simp [flagAt]

/-- A placed field lies within its mask. -/
theorem place_and_fieldMask {n : Nat} (v : BitVec n) (lo : Nat) : place v lo &&& fieldMask lo n = place v lo := by
  apply BitVec.eq_of_getLsbD_eq
  intro j hj
  rw [BitVec.getLsbD_and, getLsbD_fieldMask, getLsbD_place]
  by_cases hn : j - lo < n
  · rw [decide_eq_true hn]
    cases v.getLsbD (j - lo)
    · rw [Bool.and_false, Bool.false_and]
    · simp only [Bool.and_true, Bool.and_self]
  · simp [BitVec.getLsbD_of_ge v (j - lo) (by omega)]

theorem place_eq_zero_iff {n : Nat} (v : BitVec n) (lo : Nat) (h : lo + n ≤ 64) : place v lo = 0 ↔ v = 0 := by
  constructor
  · intro h0
    rw [← bitsAt_place_eq v lo h, h0]
    simp [bitsAt]
  · rintro rfl
    simp [place]

theorem and_fieldMask_eq_zero_iff (w : Word) (lo len : Nat) (h : lo + len ≤ 64) :
    w &&& fieldMask lo len = 0 ↔ bitsAt w lo len = 0 := by
  rw [← place_bitsAt, place_eq_zero_iff _ _ h]

/-- The bits of a word in a mask and those outside it make the word. -/
theorem and_or_and_not (w m : Word) : w &&& m ||| w &&& ~~~m = w := by
  ext i hi
  simp only [BitVec.getElem_and, BitVec.getElem_or, BitVec.getElem_not]
  cases w[i] <;> cases m[i] <;> rfl

/-- Bits within a mask joined with bits outside it are a word exactly when they are its bits within and outside. -/
theorem or_eq_iff_of_and_mask {a c m : Word} (w : Word) (ha : a &&& m = a) (hc : c &&& m = 0#64) :
    a ||| c = w ↔ w &&& ~~~m = c ∧ w &&& m = a := by
  have ha' : a &&& ~~~m = 0#64 := by
    rw [← ha, BitVec.and_assoc, BitVec.and_not_self]
    exact BitVec.and_zero
  have hc' : c &&& ~~~m = c := by simpa only [hc, BitVec.zero_or] using and_or_and_not c m
  constructor
  · rintro rfl
    rw [or_and_distrib, or_and_distrib, ha, ha', hc, hc', BitVec.zero_or, BitVec.or_zero]
    exact ⟨rfl, rfl⟩
  · rintro ⟨rfl, rfl⟩
    exact and_or_and_not w m

theorem and_or_eq_self_of_and_eq_self {a m : Word} (n : Word) (h : a &&& m = a) : a &&& (m ||| n) = a := by
  rw [← h]
  ext i hi
  simp only [BitVec.getElem_and, BitVec.getElem_or]
  cases m[i] <;> simp

/-! ### The layout of an instruction's word -/

/-- The bits an operand of the instruction stands in (R62, R63). -/
def Instr.operandMask : Instr → Word
  | .start | .stop | .diag | .trkReset | .bufReset | .bufExtract | .frmDecode => 0#64
  | .edge _ | .schSchedule _ | .trkClassify _ | .parFold _ => fieldMask 32 32
  | .fire _ _ => fieldMask 16 1 ||| fieldMask 8 8
  | .bufPush _ => fieldMask 16 1
  | .bufIsComplete _ => fieldMask 16 6

theorem Instr.operandBits_and_operandMask (i : Instr) : i.operandBits &&& i.operandMask = i.operandBits := by
  cases i with
  | fire tag level =>
    simp only [operandBits, operandMask]
    rw [or_and_distrib, and_or_eq_self_of_and_eq_self _ (place_and_fieldMask _ _), BitVec.or_comm (fieldMask 16 1),
      and_or_eq_self_of_and_eq_self _ (place_and_fieldMask _ _)]
  | edge | schSchedule | trkClassify | parFold | bufPush | bufIsComplete => exact place_and_fieldMask _ _
  | _ => rfl

theorem Instr.opcode_and_operandMask (i : Instr) : place i.opcode 0 &&& i.operandMask = 0 := by
  apply place_and_eq_zero
  cases i with
  | fire tag level =>
    simp (disch := decide) only [operandMask, fieldMask, bitsAt_or, bitsAt_place_disjoint]
    rfl
  | edge | schSchedule | trkClassify | parFold | bufPush | bufIsComplete =>
    exact bitsAt_place_disjoint _ _ _ _ (by decide)
  | _ => rfl

/-- A word is an instruction's word when its operand bits are the instruction's and the others are its opcode. -/
theorem encode_eq_iff (i : Instr) (w : Word) :
    encode i = w ↔ w &&& ~~~i.operandMask = place i.opcode 0 ∧ w &&& i.operandMask = i.operandBits :=
  or_eq_iff_of_and_mask w i.operandBits_and_operandMask i.opcode_and_operandMask

/-! ### The decoder (R61, R65, R66) -/

theorem whenUnusedZero_eq_ok {w unused : Word} {i j : Instr} (h : whenUnusedZero w unused j = .ok i) :
    w &&& unused = 0 ∧ j = i := by
  unfold whenUnusedZero at h
  split at h
  next hz => exact ⟨hz, Except.ok.inj h⟩
  next => cases h

/-- The instruction of each row of the opcode table, in its order, with its operands read from the word `w`. -/
def rowReadings (w : Word) : List Instr :=
  [.start, .stop, .edge (bitsAt w 32 32), .fire (bitsAt w 8 8) (flagAt w 16), .diag, .schSchedule (bitsAt w 32 32),
    .trkReset, .trkClassify (bitsAt w 32 32), .bufReset, .bufPush (flagAt w 16), .bufIsComplete (bitsAt w 16 6),
    .bufExtract, .parFold (bitsAt w 32 32), .frmDecode]

theorem and_operandMask_of_mem_rowReadings {i : Instr} {w : Word} (h : i ∈ rowReadings w) :
    w &&& i.operandMask = i.operandBits := by
  simp only [rowReadings, List.mem_cons, List.not_mem_nil, or_false] at h
  rcases h with rfl | rfl | rfl | rfl | rfl | rfl | rfl | rfl | rfl | rfl | rfl | rfl | rfl | rfl
  all_goals
    simp only [Instr.operandMask, Instr.operandBits, place_bitsAt, place_ofBool_flagAt, BitVec.and_or_distrib_left,
      BitVec.ofNat_eq_ofNat, BitVec.and_zero]

/-! The bits that a word must have zero are all but its opcode and its operands. -/

theorem unusedNoOperand_or_opcode : unusedNoOperand ||| fieldMask 0 4 = ~~~0#64 := by decide
theorem unusedTick_or_opcode : unusedTick ||| fieldMask 0 4 = ~~~fieldMask 32 32 := by decide
theorem unusedFire_or_opcode : unusedFire ||| fieldMask 0 4 = ~~~(fieldMask 16 1 ||| fieldMask 8 8) := by decide
theorem unusedPush_or_opcode : unusedPush ||| fieldMask 0 4 = ~~~fieldMask 16 1 := by decide
theorem unusedIsComplete_or_opcode : unusedIsComplete ||| fieldMask 0 4 = ~~~fieldMask 16 6 := by decide

/-- A word has an opcode and zeros in `unused` exactly when it is that opcode under the mask of both. -/
theorem and_unused_or_opcode_eq_iff (w : Word) {unused : Word} (op : BitVec 4) (hu : bitsAt unused 0 4 = 0) :
    w &&& (unused ||| fieldMask 0 4) = place op 0 ↔ bitsAt w 0 4 = op ∧ w &&& unused = 0 := by
  have opcode_outside (v : BitVec 4) : place v 0 &&& unused = 0#64 := place_and_eq_zero v 0 unused hu
  have opcode_kept : place op 0 &&& ~~~unused = place op 0 := by
    simpa only [opcode_outside, BitVec.zero_or] using and_or_and_not (place op 0) unused
  rw [BitVec.and_or_distrib_left, ← place_bitsAt,
    or_eq_iff_of_and_mask _ (by rw [BitVec.and_assoc, BitVec.and_self]) (opcode_outside _), opcode_kept, opcode_outside]
  constructor
  · rintro ⟨hop, hz⟩
    have e := congrArg (bitsAt · 0 4) hop
    simp only [bitsAt_place_eq _ 0 (by decide : 0 + 4 ≤ 64)] at e
    exact ⟨e.symm, hz.symm⟩
  · rintro ⟨hop, hz⟩
    exact ⟨by rw [hop], hz.symm⟩

/-- Settles O3: a word decodes only when the bits beside its opcode and operands are zero. -/
theorem encodeInvertsDecode : Obligations.EncodeInvertsDecode := by
  intro w i h
  rw [encode_eq_iff]
  unfold decodeWord at h
  split at h
  case h_15 => cases h
  all_goals
    rename bitsAt w 0 4 = _ => hop
    obtain ⟨hz, rfl⟩ := whenUnusedZero_eq_ok h
    refine ⟨?_, and_operandMask_of_mem_rowReadings (by simp only [rowReadings, List.mem_cons, true_or, or_true])⟩
    simp only [Instr.operandMask, Instr.opcode, ← unusedNoOperand_or_opcode, ← unusedTick_or_opcode,
      ← unusedFire_or_opcode, ← unusedPush_or_opcode, ← unusedIsComplete_or_opcode]
    exact (and_unused_or_opcode_eq_iff w _ rfl).2 ⟨hop, hz⟩

/-! ### Reading back (R60, R61, R52) -/

theorem bitsAt_encode_opcode (i : Instr) : bitsAt (encode i) 0 4 = i.opcode := by
  cases i with
  | start => exact Laws.OpcodeField.start
  | stop => exact Laws.OpcodeField.stop
  | edge t0 => exact Laws.OpcodeField.edge t0
  | fire tag level => exact Laws.OpcodeField.fire tag level
  | diag => exact Laws.OpcodeField.diag
  | schSchedule t0 => exact Laws.OpcodeField.schSchedule t0
  | trkReset => exact Laws.OpcodeField.trkReset
  | trkClassify t0 => exact Laws.OpcodeField.trkClassify t0
  | bufReset => exact Laws.OpcodeField.bufReset
  | bufPush bit => exact Laws.OpcodeField.bufPush bit
  | bufIsComplete minLen => exact Laws.OpcodeField.bufIsComplete minLen
  | bufExtract => exact Laws.OpcodeField.bufExtract
  | parFold x => exact Laws.OpcodeField.parFold x
  | frmDecode => exact Laws.OpcodeField.frmDecode

theorem decodeWord_encode (i : Instr) : decodeWord (encode i) = .ok i := by
  unfold decodeWord
  rw [bitsAt_encode_opcode]
  cases i with
  | edge | schSchedule | trkClassify | parFold | fire | bufPush | bufIsComplete =>
    simp (disch := decide) [Instr.opcode, whenUnusedZero, encode, Instr.operandBits, or_and_distrib, place_and_eq_zero,
      bitsAt_or, bitsAt_place_eq, bitsAt_place_disjoint, flagAt_or, flagAt_place_ofBool, flagAt_place_disjoint]
  | _ => rfl

theorem decodeWord_eq_ok_iff (w : Word) (i : Instr) : decodeWord w = .ok i ↔ encode i = w :=
  ⟨encodeInvertsDecode w i, fun h => h ▸ decodeWord_encode i⟩

/-- The bytes of a word decode to what the word does, and the bytes behind them are left. -/
theorem decodeBytes_wordBytes_append {w : Word} {i : Instr} (h : decodeWord w = .ok i) (rest : List Byte) :
    decodeBytes (wordBytes w ++ rest) = .ok (i, rest) := by
  simp only [wordBytes, List.cons_append, List.nil_append, decodeBytes, wordOfBytes_bitsAt, h]

/-- Settles O2: the opcode and the operands are read back from their places. -/
theorem decodeInvertsEncode : Obligations.DecodeInvertsEncode :=
  fun i => ⟨decodeWord_encode i, decodeBytes_wordBytes_append (decodeWord_encode i)⟩

/-! ### The opcode table -/

/-- The instruction's row of the opcode table: it matches on all bits but the operands'. -/
def Instr.tableRow (i : Instr) : Machine.OpcodeRow := ⟨i.format, place i.opcode 0, ~~~i.operandMask⟩

theorem opcodeRows_eq_map (w : Word) : Machine.opcodeRows = (rowReadings w).map Instr.tableRow := by
  simp only [rowReadings, List.map_cons, List.map_nil, Instr.tableRow, Instr.format, Instr.opcode, Instr.operandMask]
  decide

theorem Instr.tableRow_mem (i : Instr) : i.tableRow ∈ Machine.opcodeRows := by
  rw [opcodeRows_eq_map 0]
  cases i <;> simp [rowReadings, tableRow, format, opcode, operandMask]

/-- Settles O4: a word has an instruction's row exactly when it is the instruction's word. -/
theorem decoderAcceptsExactlyTheTable : Obligations.DecoderAcceptsExactlyTheTable := by
  intro fmt w
  constructor
  · rintro ⟨i, hi, rfl⟩
    obtain ⟨hmatch, -⟩ := (encode_eq_iff i w).1 ((decodeWord_eq_ok_iff w i).1 hi)
    exact ⟨i.tableRow, i.tableRow_mem, rfl, hmatch⟩
  · rintro ⟨r, hr, rfl, hmatch⟩
    rw [opcodeRows_eq_map w] at hr
    obtain ⟨i, hi, rfl⟩ := List.mem_map.1 hr
    have hops := and_operandMask_of_mem_rowReadings hi
    exact ⟨i, (decodeWord_eq_ok_iff w i).2 ((encode_eq_iff i w).2 ⟨hmatch, hops⟩), rfl⟩

/-! ### Refusals (R66) -/

theorem and_unusedNoOperand_eq_zero_iff (w : Word) : w &&& unusedNoOperand = 0 ↔ bitsAt w 4 60 = 0 := by
  rw [(by decide : unusedNoOperand = fieldMask 4 60), and_fieldMask_eq_zero_iff w 4 60 (by decide)]

theorem and_unusedTick_eq_zero_iff (w : Word) : w &&& unusedTick = 0 ↔ bitsAt w 4 28 = 0 := by
  rw [(by decide : unusedTick = fieldMask 4 28), and_fieldMask_eq_zero_iff w 4 28 (by decide)]

theorem and_unusedFire_eq_zero_iff (w : Word) :
    w &&& unusedFire = 0 ↔ bitsAt w 4 4 = 0 ∧ bitsAt w 17 15 = 0 ∧ bitsAt w 32 32 = 0 := by
  rw [(by decide : unusedFire = fieldMask 4 4 ||| (fieldMask 17 15 ||| fieldMask 32 32)), BitVec.and_or_distrib_left,
    BitVec.and_or_distrib_left, ← and_fieldMask_eq_zero_iff w 4 4 (by decide),
    ← and_fieldMask_eq_zero_iff w 17 15 (by decide), ← and_fieldMask_eq_zero_iff w 32 32 (by decide)]
  exact BitVec.or_eq_zero_iff.trans (and_congr_right' BitVec.or_eq_zero_iff)

/-- The words of the commands, field by field (R61, R62). -/
theorem inTable_cmd_iff (w : Word) : Machine.inTable .cmd w ↔
    (((bitsAt w 0 4).toNat = 1 ∨ (bitsAt w 0 4).toNat = 2 ∨ (bitsAt w 0 4).toNat = 5) ∧ bitsAt w 4 60 = 0) ∨
    ((bitsAt w 0 4).toNat = 3 ∧ bitsAt w 4 28 = 0) ∨
    ((bitsAt w 0 4).toNat = 4 ∧ bitsAt w 4 4 = 0 ∧ bitsAt w 17 15 = 0 ∧ bitsAt w 32 32 = 0) := by
  have noOperand (op : BitVec 4) := and_unused_or_opcode_eq_iff w op (rfl : bitsAt unusedNoOperand 0 4 = 0)
  have tick (op : BitVec 4) := and_unused_or_opcode_eq_iff w op (rfl : bitsAt unusedTick 0 4 = 0)
  have fire (op : BitVec 4) := and_unused_or_opcode_eq_iff w op (rfl : bitsAt unusedFire 0 4 = 0)
  rw [Machine.inTable, opcodeRows_eq_map w, ← and_unusedNoOperand_eq_zero_iff, ← and_unusedTick_eq_zero_iff,
    ← and_unusedFire_eq_zero_iff]
  simp only [rowReadings, List.map_cons, List.map_nil, List.mem_cons, List.not_mem_nil, or_false, exists_eq_or_imp,
    exists_eq_left, Instr.tableRow, Instr.format, reduceCtorEq, false_and, true_and, Instr.operandMask, Instr.opcode,
    ← unusedNoOperand_or_opcode, ← unusedTick_or_opcode, ← unusedFire_or_opcode, noOperand, tick, fire,
    ← BitVec.toNat_inj (x := bitsAt w 0 4), BitVec.toNat_ofNat, Nat.reducePow, Nat.reduceMod]
  tauto

end Sys2Proof

namespace Sys2Proof.Machine

/-- No error is fatal: performing an instruction is never a refusal (R243). -/
theorem exec_completes (i : Instr) (s : State) : ∃ t, exec i s = .next t := by
  cases i <;> exact ⟨_, rfl⟩

theorem step_command_refused_iff {s : State} {w : Word} {now : Tick} {rest : List Input}
    (hp : s.pending = .command w now :: rest) : (∃ r, step s = .refused r) ↔ ¬ inTable .cmd w := by
  rw [← decoderAcceptsExactlyTheTable .cmd w]
  simp only [step, hp, ← acceptCommand_ok]
  cases acceptCommand w with
  | error r => simp
  | ok i =>
    obtain ⟨t, ht⟩ := exec_completes i (s.beginCommand now rest)
    simp [ht]

theorem step_microOp_refused_iff {s : State} {w : Word} {now : Tick} {rest : List Input}
    (hp : s.pending = .microOp w now :: rest) : (∃ r, step s = .refused r) ↔ ¬ inTable .uop w := by
  rw [← decoderAcceptsExactlyTheTable .uop w]
  simp only [step, hp, ← acceptMicroOp_ok]
  cases acceptMicroOp w with
  | error r => simp
  | ok i =>
    obtain ⟨t, ht⟩ := exec_completes i (s.beginMicroOp now rest)
    simp [ht]

/-- Settles O5: a step refuses exactly the words that have no row of the port's format, and a command's row is its opcode
and its unused fields. -/
theorem illegalWordsAreRefused : Obligations.IllegalWordsAreRefused := by
  intro s w now rest
  refine ⟨fun hp => ?_, step_microOp_refused_iff⟩
  rw [step_command_refused_iff hp, inTable_cmd_iff]
  have hop : (bitsAt w 0 4).toNat < 16 := (bitsAt w 0 4).isLt
  generalize (bitsAt w 0 4).toNat = op at hop ⊢
  interval_cases op <;> simp [imp_iff_not_or]

/-! ### R71: the ranges of a timestamp, and the SYNC word -/

/-- The ranges of the fields that the decoder can produce (R71). -/
structure Timestamp.InRange (ts : Timestamp) : Prop where
  minute : ts.minute ≤ 85
  hour : ts.hour ≤ 45
  day : ts.day ≤ 45
  month : ts.month ≤ 25
  year_ge : 2000 ≤ ts.year
  year_le : ts.year ≤ 2165

theorem group_lt (f : Frame) (hi lo : Nat) : group f hi lo < 2 ^ (hi - lo + 1) := BitVec.isLt _

/-- Each field is a digit group and ten times another, so its range is that of their widths (R156). -/
theorem timestampOf_inRange (f : Frame) : (timestampOf f).InRange where
  minute := by
    have h1 : group f 24 21 < 16 := group_lt f 24 21
    have h10 : group f 27 25 < 8 := group_lt f 27 25
    simp only [timestampOf]
    omega
  hour := by
    have h1 : group f 32 29 < 16 := group_lt f 32 29
    have h10 : group f 34 33 < 4 := group_lt f 34 33
    simp only [timestampOf]
    omega
  day := by
    have h1 : group f 39 36 < 16 := group_lt f 39 36
    have h10 : group f 41 40 < 4 := group_lt f 41 40
    simp only [timestampOf]
    omega
  month := by
    have h1 : group f 48 45 < 16 := group_lt f 48 45
    have h10 : group f 49 49 < 2 := group_lt f 49 49
    simp only [timestampOf]
    omega
  year_ge := by
    simp only [timestampOf, Config.yearBase_val]
    omega
  year_le := by
    have h1 : group f 53 50 < 16 := group_lt f 53 50
    have h10 : group f 57 54 < 16 := group_lt f 57 54
    simp only [timestampOf, Config.yearBase_val]
    omega

theorem decodeFrame_ok {f : Frame} {ts : Timestamp} (h : decodeFrame f = .ok ts) : ts = timestampOf f := by
  unfold decodeFrame at h
  split_ifs at h
  exact (Decoded.ok.inj h).symm

theorem decodeFrame_inRange {f : Frame} {ts : Timestamp} (h : decodeFrame f = .ok ts) : ts.InRange :=
  decodeFrame_ok h ▸ timestampOf_inRange f

/-- Every field stands in the SYNC word at its place, to the width of the place (R71). -/
theorem syncWord_fields (ts : Timestamp) :
    bitsAt (syncWord ts) 16 7 = BitVec.ofNat 7 ts.minute ∧ bitsAt (syncWord ts) 24 6 = BitVec.ofNat 6 ts.hour ∧
    bitsAt (syncWord ts) 32 6 = BitVec.ofNat 6 ts.day ∧ bitsAt (syncWord ts) 40 5 = BitVec.ofNat 5 ts.month ∧
    bitsAt (syncWord ts) 48 12 = BitVec.ofNat 12 ts.year := by
  simp (disch := decide) only [syncWord, bitsAt_or, bitsAt_place_eq, bitsAt_place_disjoint, BitVec.ofNat_eq_ofNat,
    BitVec.or_zero, BitVec.zero_or, and_self]

theorem syncWord_and_stray (ts : Timestamp) : syncWord ts &&& ~~~0x0FFF1F3F3F7F000F#64 = 0 := by
  simp (disch := decide) only [syncWord, or_and_distrib, place_and_eq_zero, BitVec.ofNat_eq_ofNat, BitVec.or_zero]

/-- A timestamp in range stands whole in the SYNC word, whose other bits are KIND or 0. -/
theorem Timestamp.InRange.syncWord_whole {ts : Timestamp} (h : ts.InRange) :
    (bitsAt (syncWord ts) 16 7).toNat = ts.minute ∧ (bitsAt (syncWord ts) 24 6).toNat = ts.hour ∧
    (bitsAt (syncWord ts) 32 6).toNat = ts.day ∧ (bitsAt (syncWord ts) 40 5).toNat = ts.month ∧
    (bitsAt (syncWord ts) 48 12).toNat = ts.year := by
  obtain ⟨hminute, hhour, hday, hmonth, -, hyear⟩ := h
  obtain ⟨e1, e2, e3, e4, e5⟩ := syncWord_fields ts
  rw [e1, e2, e3, e4, e5]
  simp only [BitVec.toNat_ofNat]
  omega

theorem Timestamp.InRange.legalEvent_syncWord {ts : Timestamp} (h : ts.InRange) : legalEvent (syncWord ts) := by
  obtain ⟨hminute, hhour, hday, hmonth, hyear⟩ := h.syncWord_whole
  refine .inr (.inl ⟨kindOf_syncWord ts, syncWord_and_stray ts, ?_⟩)
  rw [hminute, hhour, hday, hmonth, hyear]
  exact ⟨h.minute, h.hour, h.day, h.month, h.year_ge, h.year_le⟩

/-- Settles O44: a decoded timestamp is in range, and a timestamp in range stands whole in its word. -/
theorem syncWordHoldsEveryTimestamp : Obligations.SyncWordHoldsEveryTimestamp := by
  intro f ts hd
  have h := decodeFrame_inRange hd
  obtain ⟨hminute, hhour, hday, hmonth, hyear⟩ := h.syncWord_whole
  exact ⟨h.minute, h.hour, h.day, h.month, h.year_ge, h.year_le, hminute, hhour, hday, hmonth, hyear,
    h.legalEvent_syncWord⟩

/-! ### R70 to R75: every output word -/

theorem legalEvent_tickWord (b : Bool) : legalEvent (tickWord b) := by
  refine .inl ?_
  cases b <;> decide

theorem legalEvent_tickErrorWord (r : TickReason) : legalEvent (tickErrorWord r) := by
  refine .inr (.inr (.inl ?_))
  cases r <;> decide

theorem legalEvent_beaconErrorWord (k : BeaconKind) : legalEvent (beaconErrorWord k) := by
  refine .inr (.inr (.inr ?_))
  cases k <;> decide

/-- A boundary reports a beacon error or the SYNC of a decoded frame (R207). -/
theorem legalEvent_frameReport (b : Buffer) : legalEvent (frameReport b) := by
  obtain ⟨-, e⟩ | ⟨-, k, -, e⟩ | ⟨-, ts, hd, e⟩ := frameReport_cases b <;> rw [e]
  · exact legalEvent_beaconErrorWord .incomplete
  · exact legalEvent_beaconErrorWord k
  · exact (decodeFrame_inRange hd).legalEvent_syncWord

/-- The delay is at most the sample offset (R72, R181). -/
theorem legalOutput_timerReq (now t0 : Tick) (tag : Tag) :
    legalOutput (.timerReq (timerWord (sampleDelay now t0) tag)) := by
  have hle := sampleDelay_le now t0
  rw [legalOutput, timerWord_delay _ _ hle]
  exact hle

/-- The bits of the record that hold no register are 0 (R73). -/
theorem legalOutput_diagRecord (s : State) : legalOutput s.diagRecord := by
  simp (disch := decide) only [State.diagRecord, State.diagWord0, legalOutput, bitsAt_or, bitsAt_place_disjoint,
    BitVec.ofNat_eq_ofNat, BitVec.or_zero, and_self]

theorem State.outputsLegal.append {s t : State} {new : List Output} (hs : s.outputsLegal)
    (e : t.outputs = s.outputs ++ new) (hnew : ∀ o ∈ new, legalOutput o) : t.outputsLegal := by
  intro o ho
  rw [e] at ho
  exact (List.mem_append.1 ho).elim (hs o) (hnew o)

/-- An EDGE presents nothing, a TICK_ERROR, a request, or a report and a request (R203 to R207). -/
theorem execEdge_keeps_outputsLegal (t0 : Tick) (s t : State) (hs : s.outputsLegal) (h : execEdge t0 s = .next t) :
    t.outputsLegal := by
  have request := legalOutput_timerReq s.nowMs t0 (s.sched.tag + 1)
  obtain ⟨-, rfl⟩ | ⟨r, -, -, rfl⟩ | ⟨_, -, -, -, rfl⟩ | ⟨_, -, -, -, rfl⟩ := execEdge_cases s t t0 h
  · exact hs
  · exact hs.append rfl (List.forall_mem_singleton.2 (legalEvent_tickErrorWord r))
  · exact hs.append rfl (List.forall_mem_singleton.2 request)
  · exact hs.append rfl
      (List.forall_mem_cons.2 ⟨legalEvent_frameReport s.buffer, List.forall_mem_singleton.2 request⟩)

/-- Only EDGE, FIRE, DIAG and SCH_SCHEDULE present anything (R69). -/
theorem exec_keeps_outputsLegal (i : Instr) (s t : State) (hs : s.outputsLegal) (h : exec i s = .next t) :
    t.outputsLegal := by
  cases i with
  | edge t0 => exact execEdge_keeps_outputsLegal t0 s t hs h
  | fire tag level =>
    obtain ⟨-, rfl⟩ | ⟨-, -, -, rfl⟩ := execFire_cases s t tag level h
    · exact hs
    · exact hs.append rfl (List.forall_mem_singleton.2 (legalEvent_tickWord level))
  | diag =>
    cases h
    exact hs.append rfl (List.forall_mem_singleton.2 (legalOutput_diagRecord s))
  | schSchedule t0 =>
    cases h
    exact hs.append rfl (List.forall_mem_singleton.2 (legalOutput_timerReq s.nowMs t0 (s.sched.tag + 1)))
  | frmDecode =>
    obtain ⟨_, _, rfl⟩ := execFrmDecode_cases s t h
    exact hs
  | start | stop | trkReset | trkClassify _ | bufReset | bufPush _ | bufIsComplete _ | bufExtract | parFold _ =>
    cases h
    exact hs

/-- Settles O55: a step waits, resets, or performs an instruction, and only the last presents anything. -/
theorem stepKeepsOutputsLegal : Obligations.StepKeepsOutputsLegal := by
  intro s t hs h
  obtain ⟨-, rfl⟩ | ⟨_, -, rfl⟩ | ⟨_, now, rest, i, -, -, -, he⟩ | ⟨_, now, rest, i, -, -, -, he⟩ := step_cases s t h
  · exact hs
  · exact hs
  · exact exec_keeps_outputsLegal i (s.beginCommand now rest) t hs he
  · exact exec_keeps_outputsLegal i (s.beginMicroOp now rest) t hs he

/-! ### R68: SECOND -/

/-- Settles O10: an EDGE presents no request, or one, whose tag is in its word. -/
theorem secondExpandsByTheRequest : Obligations.SecondExpandsByTheRequest := by
  intro s t t0 level new h ho
  obtain ⟨-, rfl⟩ | ⟨r, -, -, rfl⟩ | ⟨_, -, -, -, rfl⟩ | ⟨_, -, -, -, rfl⟩ := execEdge_cases s t t0 h
  · obtain rfl : new = [] := List.self_eq_append_right.1 ho
    rfl
  all_goals
    obtain rfl := List.append_cancel_left ho
    rfl

/-! ### R67: assembler lines -/

/-- Only UOP opcodes are issued as micro-operations; a command's word goes to the command port (R60). -/
theorem offerWord_encode_of_cmd {i : Instr} (hf : i.format = .cmd) (now : Tick) :
    offerWord (encode i) now = .command (encode i) now := by
  rw [offerWord, bitsAt_encode_opcode]
  cases i with
  | start | stop | edge _ | fire _ _ | diag => rfl
  | _ => cases hf

/-! What each line with operands spells: its instruction within the ranges of R67, nothing outside them. -/

theorem instr?_edge (t0 : Nat) : (AsmLine.edge t0 none).instr? =
    if t0 < 4294967296 then some (.edge (BitVec.ofNat 32 t0)) else none := by
  simp [AsmLine.instr?, AsmLine.wellFormed]

theorem instr?_edge_annotated (t0 now : Nat) : (AsmLine.edge t0 (some now)).instr? =
    if t0 < 4294967296 ∧ now < 4294967296 then some (.edge (BitVec.ofNat 32 t0)) else none := by
  simp [AsmLine.instr?, AsmLine.wellFormed]

theorem instr?_fire (tag level : Nat) : (AsmLine.fire tag level).instr? =
    if tag < 256 ∧ level < 2 then some (.fire (BitVec.ofNat 8 tag) (decide (level = 1))) else none := by
  simp [AsmLine.instr?, AsmLine.wellFormed, beq_eq_decide]

theorem instr?_uopSchSchedule (t0 : Nat) : (AsmLine.uopSchSchedule t0).instr? =
    if t0 < 4294967296 then some (.schSchedule (BitVec.ofNat 32 t0)) else none := by
  simp [AsmLine.instr?, AsmLine.wellFormed]

theorem instr?_uopTrkClassify (t0 : Nat) : (AsmLine.uopTrkClassify t0).instr? =
    if t0 < 4294967296 then some (.trkClassify (BitVec.ofNat 32 t0)) else none := by
  simp [AsmLine.instr?, AsmLine.wellFormed]

theorem instr?_uopBufPush (bit : Nat) : (AsmLine.uopBufPush bit).instr? =
    if bit < 2 then some (.bufPush (decide (bit = 1))) else none := by
  simp [AsmLine.instr?, AsmLine.wellFormed, beq_eq_decide]

theorem instr?_uopBufIsComplete (m : Nat) : (AsmLine.uopBufIsComplete m).instr? =
    if m < 64 then some (.bufIsComplete (BitVec.ofNat 6 m)) else none := by
  simp [AsmLine.instr?, AsmLine.wellFormed]

theorem instr?_uopParFold (x : Nat) : (AsmLine.uopParFold x).instr? =
    if x < 4294967296 then some (.parFold (BitVec.ofNat 32 x)) else none := by
  simp [AsmLine.instr?, AsmLine.wellFormed]

theorem instr?_second (t0 level : Nat) : (AsmLine.second t0 level).instr? = none := by
  simp [AsmLine.instr?]

/-- The input of an EDGE line: its word, with its annotation or else `t0` as `NOW_MS` (R67). -/
theorem lineInput?_edge {t0 : Nat} {now : Option Nat} {v : Tick} (h : (AsmLine.edge t0 now).instr? = some (.edge v)) :
    lineInput? (.edge t0 now) = some (.command (encode (.edge v)) (BitVec.ofNat 32 (now.getD t0))) := by
  simp only [lineInput?, h]
  rw [offerWord_encode_of_cmd rfl]

/-- Settles O9: line by line, with the operand's value as the field. -/
theorem assemblerLinesSpellInstructions : Obligations.AssemblerLinesSpellInstructions := by
  refine ⟨rfl, rfl, rfl, rfl, rfl, rfl, rfl, fun t0 => ⟨fun h => ?_, fun h => ?_⟩,
    fun t0 now => ⟨fun h hn => ?_, fun h => ?_⟩, fun tag level => ⟨fun h hl => ?_, fun h => ?_⟩,
    fun bit => ⟨fun h => ?_, fun h => ?_⟩, fun m => ⟨fun h => ?_, fun h => ?_⟩, fun x => ⟨fun h => ?_, fun h => ?_⟩,
    instr?_second⟩
  · have he := (instr?_edge t0).trans (if_pos h)
    exact ⟨BitVec.ofNat 32 t0, Nat.mod_eq_of_lt h, he, lineInput?_edge he, (instr?_uopSchSchedule t0).trans (if_pos h),
      (instr?_uopTrkClassify t0).trans (if_pos h)⟩
  · rw [instr?_edge, instr?_uopSchSchedule, instr?_uopTrkClassify]
    simp only [if_neg (Nat.not_lt.2 h), and_self]
  · have he := (instr?_edge_annotated t0 now).trans (if_pos ⟨h, hn⟩)
    exact ⟨BitVec.ofNat 32 t0, BitVec.ofNat 32 now, Nat.mod_eq_of_lt h, Nat.mod_eq_of_lt hn, he, lineInput?_edge he⟩
  · rw [instr?_edge_annotated, if_neg (by omega)]
  · exact ⟨BitVec.ofNat 8 tag, Nat.mod_eq_of_lt h, (instr?_fire tag level).trans (if_pos ⟨h, hl⟩)⟩
  · rw [instr?_fire, if_neg (by omega)]
  · rw [instr?_uopBufPush, if_pos h]
  · rw [instr?_uopBufPush, if_neg (by omega)]
  · exact ⟨BitVec.ofNat 6 m, Nat.mod_eq_of_lt h, (instr?_uopBufIsComplete m).trans (if_pos h)⟩
  · rw [instr?_uopBufIsComplete, if_neg (by omega)]
  · exact ⟨BitVec.ofNat 32 x, Nat.mod_eq_of_lt h, (instr?_uopParFold x).trans (if_pos h)⟩
  · rw [instr?_uopParFold, if_neg (by omega)]

/-! ### Fixed words, and FRM_DECODE with nothing driving the bus -/

/-- Settles O1. -/
theorem specWordsDecode : Obligations.SpecWordsDecode := by
  unfold Obligations.SpecWordsDecode
  decide

/-- Settles O40: the frame decoded is the free value. -/
theorem undrivenBusStillDecodes : Obligations.UndrivenBusStillDecodes :=
  fun s h => ⟨Config.undrivenFrame s.freeCount, execFrmDecode_undriven s h⟩

end Sys2Proof.Machine
end

section
/-! PROOFS. The statements of `40_cadence_tracker.md`: the tick difference (R100), TRK_RESET (R102), the calibration path
(R104), the locked path (R105 to R107), and what locks and unlocks the tracker (R110, R111). -/

namespace Sys2Proof.Machine

/-! ### R100: the tick difference -/

/-- The tick difference is the wrapped difference read as a two's complement number. -/
theorem tdiff_eq_toInt (a b : Tick) : tdiff a b = (a - b).toInt := by
  rw [tdiff, BitVec.toInt_eq_toNat_cond]
  split_ifs <;> omega

theorem tdiff_add_self (t d : Tick) : tdiff (t + d) t = d.toInt := by
  rw [tdiff_eq_toInt, add_sub_cancel_left]

theorem tdiff_add_add (t d e : Tick) : tdiff (t + d) (t + e) = tdiff d e := by
  rw [tdiff_eq_toInt, tdiff_eq_toInt, add_sub_add_left_eq_sub]

/-- R100: the tick difference and the difference of the numbers are congruent modulo 2^32. -/
theorem pow_dvd_tdiff_sub (a b : Tick) : (2 : Int) ^ 32 ∣ tdiff a b - ((a.toNat : Int) - b.toNat) := by
  have h : (a - b).toNat = (2 ^ 32 - b.toNat + a.toNat) % 2 ^ 32 := BitVec.toNat_sub a b
  have hb := b.isLt
  rw [tdiff]
  split_ifs <;> omega

/-- Settles O24: the tick difference is a 32-bit two's complement number. -/
theorem tickDifferenceIsWrapSafe : Obligations.TickDifferenceIsWrapSafe := by
  intro a b
  refine ⟨?_, ?_, pow_dvd_tdiff_sub a b⟩ <;> rw [tdiff_eq_toInt]
  · exact BitVec.le_toInt (a - b)
  · exact BitVec.toInt_lt

/-! ### R102: TRK_RESET -/

/-- Settles O25: a second reset writes again what the first one wrote. -/
theorem trackerResetClearsHistory : Obligations.TrackerResetClearsHistory :=
  ⟨rfl, fun _ => ⟨_, rfl, rfl, rfl⟩⟩

/-! ### R101 and R106: the windows as ranges -/

theorem windowOf_eq_some_iff (d : Int) (k : Nat) :
    windowOf d = some k ↔ (1 ≤ k ∧ k ≤ 3) ∧ 1000 * (k : Int) - 49 ≤ d ∧ d ≤ 1000 * k + 49 := by
  rw [windowOf_eq]
  split_ifs <;> simp <;> omega

theorem windowOf_eq_none_iff (d : Int) : windowOf d = none ↔
    d ≤ 950 ∨ (1050 ≤ d ∧ d ≤ 1950) ∨ (2050 ≤ d ∧ d ≤ 2950) ∨ 3050 ≤ d := by
  rw [windowOf_eq]
  split_ifs <;> simp <;> omega

/-! ### R104 to R107: the outcome of a classification, by the history and the edge -/

/-- TRK_CLASSIFY writes the history and the result bus by the classification, and nothing else (R103). -/
theorem exec_trkClassify (t : Tick) (s : State) {tr : Tracker} {c : Classification}
    (h : s.tracker.classify t = (tr, c)) :
    exec (.trkClassify t) s = .next { s with tracker := tr, resultBus := some (.classified c) } := by
  have e : exec (.trkClassify t) s = .next { s with
      tracker := (s.tracker.classify t).1, resultBus := some (.classified (s.tracker.classify t).2) } := rfl
  rw [e, h]

/-- An edge `t` is within tolerance of `(i + 1) * CELL` after every retained entry `i` (R104). -/
def Tracker.fits (tr : Tracker) (t : Tick) : Prop :=
  ∀ i, i < tr.len.toNat → (tdiff t (tr.entry i) - ((i : Int) + 1) * 1000).natAbs < 50

theorem Tracker.classify_of_fits (tr : Tracker) (t : Tick) (hl : tr.len.toNat < 3) (hf : tr.fits t) :
    tr.classify t = (⟨tr.len + 1, t, tr.h0, tr.h1⟩, .invalid .calibrating) := by
  have hm : cadenceMatches t 0 tr.valid = true := (cadenceMatches_valid tr t hl).2 hf
  obtain ⟨-, e⟩ | ⟨hm', -⟩ := tr.calibrate_cases t
  · rw [tr.classify_calibrating t hl, e, Tracker.prepend]
  · simp [hm] at hm'

theorem Tracker.classify_of_not_fits (tr : Tracker) (t : Tick) (hl : tr.len.toNat < 3) (hf : ¬ tr.fits t) :
    tr.classify t = (⟨0, 0, 0, 0⟩, .invalid .calMismatch) := by
  obtain ⟨hm, -⟩ | ⟨-, e⟩ := tr.calibrate_cases t
  · exact absurd ((cadenceMatches_valid tr t hl).1 hm) hf
  · rw [tr.classify_calibrating t hl, e, Tracker.cleared]

theorem Tracker.classify_of_le (tr : Tracker) (t : Tick) (hl : tr.len = 3) (hd : tdiff t tr.h0 ≤ 950) :
    tr.classify t = (tr, .invalid .early) := by
  obtain ⟨-, e⟩ | ⟨_, -, h, -⟩ | ⟨-, h, -⟩ := tr.track_cases t
  · rw [tr.classify_locked t hl, e]
  all_goals omega

theorem Tracker.classify_of_window (tr : Tracker) (t : Tick) (k : Nat) (hl : tr.len = 3)
    (hw : windowOf (tdiff t tr.h0) = some k) : tr.classify t = (⟨3, t, tr.h0, tr.h1⟩, .tick k) := by
  obtain ⟨h, -⟩ | ⟨j, hj, -, e⟩ | ⟨h, -, -⟩ := tr.track_cases t
  · have := (windowOf_eq_some_iff _ k).1 hw
    omega
  · obtain rfl : j = k := Option.some.inj (hj.symm.trans hw)
    rw [tr.classify_locked t hl, e, Tracker.prepend, hl]
  · simp [hw] at h

theorem Tracker.classify_of_no_window (tr : Tracker) (t : Tick) (hl : tr.len = 3) (hd : 950 < tdiff t tr.h0)
    (hw : windowOf (tdiff t tr.h0) = none) : tr.classify t = (⟨0, 0, 0, 0⟩, .invalid .lost) := by
  obtain ⟨h, -⟩ | ⟨_, h, -, -⟩ | ⟨-, -, e⟩ := tr.track_cases t
  · omega
  · simp [hw] at h
  · rw [tr.classify_locked t hl, e, Tracker.cleared]

/-- Settles O26: the edge fits the retained entries or it does not (R104). -/
theorem calibrationAdmitsOnlyTheCadence : Obligations.CalibrationAdmitsOnlyTheCadence := fun s t hl =>
  ⟨fun hf => ⟨_, exec_trkClassify t s (s.tracker.classify_of_fits t hl hf), s.tracker.toNat_len_add_one hl, rfl, rfl, rfl⟩,
    fun hf => exec_trkClassify t s (s.tracker.classify_of_not_fits t hl hf)⟩

/-- Settles O27: the seven ranges are the EARLY one, the three windows, and the gaps after each of them. -/
theorem lockedDeltasArePartitioned : Obligations.LockedDeltasArePartitioned := by
  intro s t hl d keeps accepts clears
  have hkeep (hd : d ≤ 950) : keeps (.invalid .early) := exec_trkClassify t s (s.tracker.classify_of_le t hl hd)
  have haccept (k : Nat) (hk : (1 ≤ k ∧ k ≤ 3) ∧ 1000 * (k : Int) - 49 ≤ d ∧ d ≤ 1000 * k + 49) : accepts k :=
    exec_trkClassify t s (s.tracker.classify_of_window t k hl ((windowOf_eq_some_iff d k).2 hk))
  have hclear (hd : (1050 ≤ d ∧ d ≤ 1950) ∨ (2050 ≤ d ∧ d ≤ 2950) ∨ 3050 ≤ d) : clears :=
    exec_trkClassify t s
      (s.tracker.classify_of_no_window t hl (by omega) ((windowOf_eq_none_iff d).2 (.inr hd)))
  exact ⟨hkeep, fun h1 h2 => haccept 1 (by omega), fun h1 h2 => hclear (.inl ⟨h1, h2⟩),
    fun h1 h2 => haccept 2 (by omega), fun h1 h2 => hclear (.inr (.inl ⟨h1, h2⟩)),
    fun h1 h2 => haccept 3 (by omega), fun h1 => hclear (.inr (.inr h1))⟩

/-! ### R110 and R111: locking and unlocking -/

/-- A tracker that is not locked never answers TICK (R110). -/
theorem Tracker.classify_ne_tick (tr : Tracker) (t : Tick) (hl : tr.len.toNat < 3) (n : Nat) :
    (tr.classify t).2 ≠ .tick n := by
  intro hc
  obtain ⟨h3, -⟩ := tr.classify_tick t n hc
  simp [h3] at hl

/-- Three edges 1000 ms apart lock a cleared history, wherever the tick counter stands (R100, R110). -/
theorem Tracker.classify_three_edges (tr : Tracker) (t : Tick) (h : tr.len = 0) :
    (((tr.classify t).1.classify (t + 1000)).1.classify (t + 2000)).1 = ⟨3, t + 2000, t + 1000, t⟩ := by
  have e1 : tr.classify t = (⟨1, t, tr.h0, tr.h1⟩, .invalid .calibrating) := by
    rw [tr.classify_of_fits t (by simp [h]) (by simp [Tracker.fits, h]), h]
    rfl
  have e2 : Tracker.classify ⟨1, t, tr.h0, tr.h1⟩ (t + 1000) = (⟨2, t + 1000, t, tr.h0⟩, .invalid .calibrating) := by
    refine Tracker.classify_of_fits _ _ (show 1 < 3 by decide) fun i (hi : i < 1) => ?_
    obtain rfl : i = 0 := by omega
    simp only [Tracker.entry, tdiff_add_self]
    decide
  have e3 : Tracker.classify ⟨2, t + 1000, t, tr.h0⟩ (t + 2000) = (⟨3, t + 2000, t + 1000, t⟩, .invalid .calibrating) := by
    refine Tracker.classify_of_fits _ _ (show 2 < 3 by decide) fun i (hi : i < 2) => ?_
    obtain rfl | rfl : i = 0 ∨ i = 1 := by omega
    · simp only [Tracker.entry, tdiff_add_add]
      decide
    · simp only [Tracker.entry, tdiff_add_self]
      decide
  rw [e1, e2, e3]

/-- Settles O28: the three edges leave the reference at the third, 1000 and 2000 ms before the two fourth edges. -/
theorem noTickBeforeLock : Obligations.NoTickBeforeLock := by
  refine ⟨Tracker.classify_ne_tick, fun tr t h => ?_⟩
  rw [tr.classify_three_edges t h]
  have htick (x : Tick) (k : Nat) (hw : windowOf (tdiff x 2000) = some k) :
      (Tracker.classify ⟨3, t + 2000, t + 1000, t⟩ (t + x)).2 = .tick k := by
    rw [Tracker.classify_of_window _ _ k rfl ((tdiff_add_add t x 2000).symm ▸ hw)]
  exact ⟨rfl, htick 3000 1 (by decide), htick 4000 2 (by decide)⟩

theorem Tracker.classify_unlocks (tr : Tracker) (t : Tick) (h : tr.len = 3) (h' : (tr.classify t).1.len ≠ 3) :
    (tr.classify t).2 = .invalid .lost := by
  cases hc : (tr.classify t).2 with
  | tick n =>
    obtain ⟨-, -, e, -⟩ := tr.classify_tick t n hc
    exact absurd (congrArg Tracker.len e) h'
  | invalid r =>
    obtain ⟨-, hl, -⟩ | ⟨-, hl, -⟩ | ⟨-, -, e, -⟩ | ⟨rfl, -⟩ := tr.classify_invalid t r hc
    · exact absurd h hl
    · exact absurd h hl
    · exact absurd ((congrArg Tracker.len e).trans h) h'
    · rfl

theorem Tracker.classify_locks (tr : Tracker) (t : Tick) (h : tr.len ≠ 3) (h' : (tr.classify t).1.len = 3) :
    tr.len = 2 ∧ (tr.classify t).2 = .invalid .calibrating := by
  cases hc : (tr.classify t).2 with
  | tick n => exact absurd (tr.classify_tick t n hc).1 h
  | invalid r =>
    obtain ⟨rfl, -, e, -⟩ | ⟨-, -, -, e, -⟩ | ⟨-, hl, -⟩ | ⟨-, hl, -⟩ := tr.classify_invalid t r hc
    · rw [e] at h'
      exact ⟨add_right_cancel (b := 1#2) h', rfl⟩
    · rw [e] at h'
      exact absurd h' (by decide)
    · exact absurd hl h
    · exact absurd hl h

/-- Settles O29: of the writers of the history, START and TRK_RESET clear it, and a classification enters or leaves the
locked length only by its third match or its LOST edge. -/
theorem onlyLostOrRestartUnlocks : Obligations.OnlyLostOrRestartUnlocks := by
  intro i s t h
  obtain e | ⟨e, hi⟩ | ⟨t0, e, hi⟩ := exec_tracker_cases i s t h <;> rw [e]
  · exact ⟨fun h3 hn => absurd h3 hn, fun hn h3 => absurd h3 hn⟩
  · exact ⟨fun _ _ => hi.imp_right .inl, fun _ h3 => absurd h3 (by decide)⟩
  · have hi : i = .edge t0 ∨ i = .trkClassify t0 := hi.symm.imp_left And.left
    refine ⟨fun h3 hn => .inr (.inr ⟨t0, hi, s.tracker.classify_unlocks t0 h3 hn⟩), fun hn h3 => ?_⟩
    obtain ⟨h2, hc⟩ := s.tracker.classify_locks t0 hn h3
    exact ⟨h2, t0, hi, hc⟩

end Sys2Proof.Machine
end

section
/-! PROOFS. The statements of `41_bit_buffer.md`: BUF_RESET (R130), BUF_PUSH (R131), BUF_IS_COMPLETE (R132), BUF_EXTRACT
(R134 to R136), and which instructions write the buffer (R137). -/

namespace Sys2Proof

/-- A field that fits in the word weighs its number by its place (R61). -/
theorem toNat_place {n : Nat} (v : BitVec n) (lo : Nat) (h : lo + n ≤ 64) : (place v lo).toNat = v.toNat * 2 ^ lo := by
  have hn : v.toNat < 2 ^ 64 := v.isLt.trans_le (Nat.pow_le_pow_right two_pos (by omega))
  have hw : v.toNat * 2 ^ lo < 2 ^ 64 :=
    calc v.toNat * 2 ^ lo < 2 ^ n * 2 ^ lo := Nat.mul_lt_mul_of_pos_right v.isLt (Nat.two_pow_pos lo)
      _ = 2 ^ (lo + n) := by rw [Nat.add_comm, pow_add]
      _ ≤ 2 ^ 64 := Nat.pow_le_pow_right two_pos h
  rw [place, BitVec.toNat_shiftLeft, BitVec.toNat_setWidth, Nat.mod_eq_of_lt hn, Nat.shiftLeft_eq, Nat.mod_eq_of_lt hw]

/-- The opcode does not overlap the operands, so the number of a word is the sum of both (R61). -/
theorem toNat_encode (i : Instr) : (encode i).toNat = i.operandBits.toNat + i.opcode.toNat := by
  have hdisjoint : i.operandBits &&& place i.opcode 0 = 0#64 := by
    rw [← i.operandBits_and_operandMask, BitVec.and_assoc, BitVec.and_comm i.operandMask, i.opcode_and_operandMask]
    exact BitVec.and_zero
  rw [encode, ← BitVec.add_eq_or_of_and_eq_zero _ _ hdisjoint, BitVec.toNat_add_of_and_eq_zero hdisjoint,
    toNat_place _ _ (by decide), pow_zero, Nat.mul_one]

end Sys2Proof

namespace Sys2Proof.Machine

/-! ### R130: BUF_RESET -/

/-- Settles O31: a second reset writes again what the first one wrote. -/
theorem bufferResetEmpties : Obligations.BufferResetEmpties :=
  ⟨rfl, fun _ => ⟨_, rfl, rfl, rfl⟩⟩

/-! ### R131: BUF_PUSH -/

/-- Settles O32: the buffer that BUF_PUSH leaves is the one with the bit pushed. -/
theorem pushWritesOneBit : Obligations.PushWritesOneBit := by
  intro s bit
  refine ⟨?_, s.buffer.push bit, rfl, s.buffer.push_cnt bit, s.buffer.push_bits bit⟩
  cases bit <;> rfl

/-! ### R132: BUF_IS_COMPLETE -/

theorem Buffer.isComplete_iff (b : Buffer) (m : Nat) : b.isComplete m = true ↔ m ≤ b.cnt.toNat := decide_eq_true_iff

/-- Settles O33: the result bus carries the comparison of the count. -/
theorem isCompleteComparesTheCount : Obligations.IsCompleteComparesTheCount := by
  intro s m
  refine ⟨?_, s.buffer.isComplete m.toNat, rfl, s.buffer.isComplete_iff _, ?_⟩
  · rw [toNat_encode, Instr.operandBits, toNat_place _ _ (by decide)]
    rfl
  · rintro rfl
    exact (s.buffer.isComplete_iff _).2 (Nat.zero_le _)

/-! ### R134 to R136: BUF_EXTRACT -/

theorem Buffer.extract_of_full (b : Buffer) (h : 59 ≤ b.cnt.toNat) : b.extract = .ok b.bits := by
  rw [b.extract_eq, if_pos h]

theorem Buffer.extract_of_short (b : Buffer) (h : b.cnt.toNat < 59) : b.extract = .incomplete := by
  rw [b.extract_eq, if_neg (by omega)]

/-- BUF_EXTRACT writes the two buses by what the buffer holds, and no register (R135). -/
theorem exec_bufExtract (s : State) {e : Extracted} (h : s.buffer.extract = e) :
    exec .bufExtract s = .next { s with frameBus := e.bus, resultBus := some (.extracted e) } := by
  subst h
  rfl

/-- Settles O34: the buffer holds a full frame or it does not. -/
theorem extractNeedsAFullFrame : Obligations.ExtractNeedsAFullFrame := fun s =>
  ⟨fun h => exec_bufExtract s (s.buffer.extract_of_full h), fun h => ⟨_, exec_bufExtract s (s.buffer.extract_of_short h)⟩⟩

/-- Settles O36: 59 pushes fill the frame, and bit `i` is the `i`-th of them however many follow. -/
theorem extractKeepsTheFirstBits : Obligations.ExtractKeepsTheFirstBits := by
  intro bits hn
  have hfull : 59 ≤ (pushAll bits).cnt.toNat := by
    rw [pushAll_cnt]
    omega
  exact ⟨(pushAll bits).bits, (pushAll bits).extract_of_full hfull, pushAll_bits bits⟩

/-! ### R137: the writers of the buffer -/

/-- Settles O37: a changed buffer was emptied or took a bit, and each has its instructions. -/
theorem onlyFiveInstructionsWriteTheBuffer : Obligations.OnlyFiveInstructionsWriteTheBuffer := by
  intro i s t h hne
  obtain e | ⟨-, hreset | hstart | hedge⟩ | ⟨b, -, hpush | hfire⟩ := exec_buffer_cases i s t h
  · exact absurd e hne
  · exact .inl hreset
  · exact .inr (.inr (.inl hstart))
  · exact .inr (.inr (.inr (.inl hedge)))
  · exact .inr (.inl ⟨b, hpush⟩)
  · exact .inr (.inr (.inr (.inr ⟨b, hfire⟩)))

end Sys2Proof.Machine
end

section
/-! PROOFS. The statements of `42_frame_decoder.md`: PAR_FOLD (R150, R151), FRM_DECODE (R152 to R158), what it ignores
(R159), and the source's properties of transmitted and of corrupted frames. -/

namespace Sys2Proof.Machine

/-! ### R150 and R151: the fold is the parity of the number of ones -/

/-- Where exactly one of two predicates holds is counted, up to an even number, by counting both. -/
theorem countP_xor_mod_two {α : Type} (p q : α → Bool) (l : List α) :
    l.countP (fun a => p a ^^ q a) % 2 = (l.countP p + l.countP q) % 2 := by
  induction l with
  | nil => rfl
  | cons a l ih =>
    simp only [List.countP_cons]
    cases p a <;> cases q a <;> simp <;> omega

/-- One halving keeps the parity of the ones: bit `i` of the lower half takes in bit `k + i` (R150). -/
theorem countP_xorHalf_mod_two (x : BitVec 32) (k : Nat) :
    (List.range k).countP (xorHalf x k).getLsbD % 2 = (List.range (k + k)).countP x.getLsbD % 2 := by
  have hbit : (xorHalf x k).getLsbD = fun i => x.getLsbD i ^^ x.getLsbD (k + i) := by
    funext i
    rw [xorHalf, BitVec.getLsbD_xor, BitVec.getLsbD_ushiftRight]
  rw [hbit, countP_xor_mod_two, List.range_add, List.countP_append, List.countP_map]
  rfl

/-- The five halvings leave the parity of all 32 bits in bit 0 (R150). -/
theorem fold_eq (x : BitVec 32) : fold x = decide (popcount x % 2 = 1) := by
  have hone (y : BitVec 32) : y.getLsbD 0 = decide ((List.range 1).countP y.getLsbD % 2 = 1) := by
    rw [List.range_one, List.countP_singleton]
    cases y.getLsbD 0 <;> rfl
  rw [fold, hone, countP_xorHalf_mod_two, countP_xorHalf_mod_two, countP_xorHalf_mod_two, countP_xorHalf_mod_two,
    countP_xorHalf_mod_two, popcount]

/-- Settles O38: the result bus carries the fold. -/
theorem foldIsThePopulationParity : Obligations.FoldIsThePopulationParity := by
  intro s x
  rw [← fold_eq]
  rfl

/-! ### R152 to R157: spans and digit groups, as counts of ones and by division -/

theorem popcount_setWidth {n m : Nat} (x : BitVec n) (h : n ≤ m) : popcount (x.setWidth m) = popcount x := by
  obtain ⟨k, rfl⟩ := Nat.exists_eq_add_of_le h
  have hlow : (List.range n).countP (x.setWidth (n + k)).getLsbD = popcount x :=
    List.countP_congr fun i hi => by
      rw [BitVec.getLsbD_setWidth, decide_eq_true ((List.mem_range.1 hi).trans_le h), Bool.true_and]
  have hhigh : (List.range k).countP ((x.setWidth (n + k)).getLsbD ∘ (n + ·)) = 0 :=
    List.countP_eq_zero.2 fun i _ => by simp
  rw [popcount, List.range_add, List.countP_append, List.countP_map, hhigh, hlow, Nat.add_zero]

theorem popcount_span (f : Frame) (hi lo : Nat) (hle : lo ≤ hi) :
    popcount (f.extractLsb' lo (hi - lo + 1)) = onesIn f hi lo := by
  rw [onesIn, List.range'_eq_map_range, List.countP_map, Nat.sub_add_comm hle]
  refine List.countP_congr fun i hi => ?_
  rw [BitVec.getLsbD_extractLsb', decide_eq_true (List.mem_range.1 hi), Bool.true_and]
  rfl

/-- The fold of a span is the parity of its ones (R152). -/
theorem spanParity_eq (f : Frame) (hi lo : Nat) (hle : lo ≤ hi) (hlen : hi - lo < 32) :
    spanParity f hi lo = decide (onesIn f hi lo % 2 = 1) := by
  rw [spanParity, fold_eq, popcount_setWidth _ (by omega), popcount_span f hi lo hle]

theorem group_eq_digits (f : Frame) (hi lo : Nat) (hle : lo ≤ hi) : group f hi lo = digits f hi lo := by
  rw [group, digits, BitVec.extractLsb'_toNat, Nat.shiftRight_eq_div_pow, Nat.sub_add_comm hle]

/-- FRM_DECODE by the ones of the three spans, in the order of R153. -/
theorem decodeFrame_eq (f : Frame) : decodeFrame f =
    if onesIn f 58 36 % 2 = 1 then .err .parityDate
    else if onesIn f 35 29 % 2 = 1 then .err .parityHour
    else if onesIn f 28 21 % 2 = 1 then .err .parityMinute
    else .ok (timestampOf f) := by
  simp (disch := decide) only [decodeFrame, spanParity_eq, decide_eq_true_eq]

/-- Settles O39: the spans by their ones, the digit groups by division. -/
theorem frameDecodeChecksThenReads : Obligations.FrameDecodeChecksThenReads := by
  refine ⟨rfl, fun s f h => (execFrmDecode_driven s f h).trans ?_⟩
  simp (disch := decide) only [decodeFrame_eq, timestampOf, group_eq_digits, Config.yearBase_val]
  rfl

/-! ### R159: what a decode depends on -/

theorem onesIn_congr {f g : Frame} {hi lo : Nat} (h : ∀ i, lo ≤ i → i ≤ hi → f.getLsbD i = g.getLsbD i) :
    onesIn f hi lo = onesIn g hi lo := by
  refine List.countP_congr fun i hi => ?_
  rw [List.mem_range'_1] at hi
  rw [h i hi.1 (by omega)]

theorem group_congr {f g : Frame} {hi lo : Nat} (hle : lo ≤ hi)
    (h : ∀ i, lo ≤ i → i ≤ hi → f.getLsbD i = g.getLsbD i) : group f hi lo = group g hi lo := by
  refine congrArg BitVec.toNat (BitVec.eq_of_getLsbD_eq fun i hi => ?_)
  rw [BitVec.getLsbD_extractLsb', BitVec.getLsbD_extractLsb', h (lo + i) (by omega) (by omega)]

/-- A decode depends on the date parity and on the bits from 21 on, those of the weekday excepted (R159). -/
theorem decodeFrame_congr {f g : Frame}
    (h : ∀ i, 21 ≤ i → i ≤ 58 → i < 42 ∨ 44 < i → f.getLsbD i = g.getLsbD i)
    (hdate : onesIn f 58 36 % 2 = onesIn g 58 36 % 2) : decodeFrame f = decodeFrame g := by
  have hones (hi lo : Nat) (h1 : 21 ≤ lo) (h2 : hi < 42) : onesIn f hi lo = onesIn g hi lo :=
    onesIn_congr fun i _ _ => h i (by omega) (by omega) (by omega)
  have hgroup (hi lo : Nat) (hle : lo ≤ hi) (h1 : 21 ≤ lo) (h2 : hi ≤ 58) (h3 : hi < 42 ∨ 44 < lo) :
      group f hi lo = group g hi lo :=
    group_congr hle fun i _ _ => h i (by omega) (by omega) (by omega)
  have hfields : timestampOf f = timestampOf g := by
    simp (disch := decide) only [timestampOf, hgroup]
  rw [decodeFrame_eq, decodeFrame_eq, hdate, hones 35 29 (by decide) (by decide), hones 28 21 (by decide) (by decide),
    hfields]

/-- Settles O43: frames that agree on the weekday bits too have the same date parity. -/
theorem lowBitsDoNotMatter : Obligations.LowBitsDoNotMatter :=
  ⟨fun _ _ h => decodeFrame_congr (fun i h1 h2 _ => h i h1 h2)
      (congrArg (· % 2) (onesIn_congr fun i h1 h2 => h i (by omega) h2)),
    fun _ _ => decodeFrame_congr⟩

/-! ### One flipped bit -/

theorem getLsbD_one_shiftLeft {i j : Nat} (hj : j < 59) : (1#59 <<< i).getLsbD j = (j == i) := by
  rw [BitVec.getLsbD_shiftLeft, BitVec.getLsbD_one, Bool.eq_iff_iff]
  simp only [Bool.and_eq_true, Bool.not_eq_true', decide_eq_true_eq, decide_eq_false_iff_not, beq_iff_eq]
  omega

theorem onesIn_xor_mod_two (f g : Frame) (hi lo : Nat) :
    onesIn (f ^^^ g) hi lo % 2 = (onesIn f hi lo + onesIn g hi lo) % 2 := by
  simp only [onesIn, BitVec.getLsbD_xor, countP_xor_mod_two]

theorem onesIn_one_shiftLeft {i hi lo : Nat} (h1 : lo ≤ i) (h2 : i ≤ hi) (hhi : hi < 59) :
    onesIn (1#59 <<< i) hi lo = 1 := by
  have hbits : onesIn (1#59 <<< i) hi lo = (List.range' lo (hi + 1 - lo)).count i :=
    List.countP_congr fun j hj => by
      rw [List.mem_range'_1] at hj
      rw [getLsbD_one_shiftLeft (by omega)]
  rw [hbits]
  exact List.count_eq_one_of_mem List.nodup_range' (List.mem_range'_1.2 (by omega))

theorem onesIn_flip_inside {f : Frame} {i hi lo : Nat} (h1 : lo ≤ i) (h2 : i ≤ hi) (hhi : hi < 59)
    (heven : onesIn f hi lo % 2 = 0) : onesIn (f ^^^ (1#59 <<< i)) hi lo % 2 = 1 := by
  rw [onesIn_xor_mod_two, onesIn_one_shiftLeft h1 h2 hhi]
  omega

theorem onesIn_flip_outside (f : Frame) {i hi lo : Nat} (h : i < lo) (hhi : hi < 59) :
    onesIn (f ^^^ (1#59 <<< i)) hi lo = onesIn f hi lo :=
  onesIn_congr fun j h1 h2 => by
    rw [BitVec.getLsbD_xor, getLsbD_one_shiftLeft (by omega), beq_false_of_ne (by omega), Bool.xor_false]

/-- A frame decodes exactly when each of its three spans has an even number of ones (R153). -/
theorem decodeFrame_eq_ok_iff (f : Frame) (ts : Timestamp) : decodeFrame f = .ok ts ↔
    (onesIn f 58 36 % 2 = 0 ∧ onesIn f 35 29 % 2 = 0 ∧ onesIn f 28 21 % 2 = 0) ∧ timestampOf f = ts := by
  rw [decodeFrame_eq]
  split_ifs with h1 h2 h3
  · exact ⟨nofun, fun h => by omega⟩
  · exact ⟨nofun, fun h => by omega⟩
  · exact ⟨nofun, fun h => by omega⟩
  · rw [Decoded.ok.injEq, and_iff_right (by omega)]

/-- Settles O42: the flip makes the ones of its own span odd and leaves those of the spans checked before it even. -/
theorem oneFlippedBitNamesItsSpan : Obligations.OneFlippedBitNamesItsSpan := by
  intro f ts h
  obtain ⟨⟨hdate, hhour, hminute⟩, -⟩ := (decodeFrame_eq_ok_iff f ts).1 h
  refine ⟨fun i h1 h2 => ?_, fun i h1 h2 => ?_, fun i h1 h2 => ?_⟩ <;> rw [decodeFrame_eq]
  · rw [if_pos (onesIn_flip_inside h1 h2 (by decide) hdate)]
  · rw [onesIn_flip_outside f (by omega) (by decide), hdate, if_neg zero_ne_one,
      if_pos (onesIn_flip_inside h1 h2 (by decide) hhour)]
  · rw [onesIn_flip_outside f (by omega) (by decide), hdate, if_neg zero_ne_one,
      onesIn_flip_outside f (by omega) (by decide), hhour, if_neg zero_ne_one,
      if_pos (onesIn_flip_inside h1 h2 (by decide) hminute)]

/-! ### The frame of a date and time -/

/-- A placed number has its bits at its place, and no others. -/
theorem getLsbD_atIndex (v : Nat) {w lo i : Nat} (hi : i < 59) :
    (atIndex v w lo).getLsbD i = (decide (lo ≤ i ∧ i < lo + w) && v.testBit (i - lo)) := by
  rw [atIndex, BitVec.getLsbD_shiftLeft, BitVec.getLsbD_setWidth, BitVec.getLsbD_ofNat, Bool.eq_iff_iff]
  cases v.testBit (i - lo)
  · simp only [Bool.and_false, Bool.false_eq_true]
  · simp only [Bool.and_true, Bool.and_eq_true, Bool.not_eq_true', decide_eq_true_eq, decide_eq_false_iff_not]
    omega

theorem getLsbD_atIndex_bit (v : Nat) {lo : Nat} (hlo : lo < 59) :
    (atIndex v 1 lo).getLsbD lo = decide (v % 2 = 1) := by
  rw [getLsbD_atIndex v hlo, Nat.sub_self, Nat.testBit_zero, decide_eq_true (by omega : lo ≤ lo ∧ lo < lo + 1),
    Bool.true_and]

theorem getLsbD_atIndex_outside (v : Nat) {w lo i : Nat} (h : i < lo ∨ lo + w ≤ i) (hi : i < 59) :
    (atIndex v w lo).getLsbD i = false := by
  rw [getLsbD_atIndex v hi, decide_eq_false (by omega), Bool.false_and]

theorem group_or (f g : Frame) (hi lo : Nat) : group (f ||| g) hi lo = group f hi lo ||| group g hi lo := by
  rw [group, BitVec.extractLsb'_or, BitVec.toNat_or, group, group]

theorem group_atIndex_outside (v : Nat) {w p hi lo : Nat} (h : hi < p ∨ p + w ≤ lo) (hle : lo ≤ hi ∧ hi < 59) :
    group (atIndex v w p) hi lo = 0 := by
  have hzero : group (0 : Frame) hi lo = 0 := by simp [group]
  rw [← hzero]
  refine group_congr hle.1 fun i h1 h2 => ?_
  rw [getLsbD_atIndex_outside v (by omega) (by omega), BitVec.ofNat_eq_ofNat, BitVec.getLsbD_zero]

theorem group_atIndex_same (v : Nat) {w hi lo : Nat} (h : hi + 1 = lo + w) (hle : lo ≤ hi ∧ hi < 59) :
    group (atIndex v w lo) hi lo = v % 2 ^ w := by
  obtain rfl : w = hi - lo + 1 := by omega
  have e : (atIndex v (hi - lo + 1) lo).extractLsb' lo (hi - lo + 1) = BitVec.ofNat (hi - lo + 1) v := by
    refine BitVec.eq_of_getLsbD_eq fun i hw => ?_
    rw [BitVec.getLsbD_extractLsb', getLsbD_atIndex v (by omega), BitVec.getLsbD_ofNat, Nat.add_sub_cancel_left]
    simp
  rw [group, e, BitVec.toNat_ofNat]

/-- The bits that no field holds are placed numbers too. -/
theorem setWidth_eq_atIndex {n : Nat} (v : BitVec n) : v.setWidth 59 = atIndex v.toNat n 0 := by
  rw [atIndex, BitVec.ofNat_toNat, BitVec.setWidth_eq, BitVec.shiftLeft_zero]

theorem setWidth_shiftLeft_eq_atIndex {n : Nat} (v : BitVec n) (lo : Nat) :
    v.setWidth 59 <<< lo = atIndex v.toNat n lo := by
  rw [atIndex, BitVec.ofNat_toNat, BitVec.setWidth_eq]

/-- The fields of a transmitted frame are the digits put there, to the width of their groups (R155). -/
theorem timestampOf_broadcastFrame_digits (ts : Timestamp) (low : BitVec 21) (weekday : BitVec 3) :
    timestampOf (broadcastFrame ts low weekday) = {
      year := 2000 + (ts.year - 2000) % 10 % 2 ^ 4 + 10 * ((ts.year - 2000) / 10 % 2 ^ 4)
      month := ts.month % 10 % 2 ^ 4 + 10 * (ts.month / 10 % 2 ^ 1)
      day := ts.day % 10 % 2 ^ 4 + 10 * (ts.day / 10 % 2 ^ 2)
      hour := ts.hour % 10 % 2 ^ 4 + 10 * (ts.hour / 10 % 2 ^ 2)
      minute := ts.minute % 10 % 2 ^ 4 + 10 * (ts.minute / 10 % 2 ^ 3) } := by
  simp (disch := decide) only [timestampOf, broadcastFrame, dataFrame, setWidth_eq_atIndex low,
    setWidth_shiftLeft_eq_atIndex weekday, group_or, group_atIndex_outside, group_atIndex_same, Nat.zero_or, Nat.or_zero,
    Config.yearBase_val]

/-- Every digit of a date and time fits its group (R155, R156). -/
theorem timestampOf_broadcastFrame (ts : Timestamp) (low : BitVec 21) (weekday : BitVec 3)
    (hyear : 2000 ≤ ts.year ∧ ts.year ≤ 2099) (hmonth : ts.month ≤ 12) (hday : ts.day ≤ 31) (hhour : ts.hour ≤ 23)
    (hminute : ts.minute ≤ 59) : timestampOf (broadcastFrame ts low weekday) = ts := by
  obtain ⟨year, month, day, hour, minute⟩ := ts
  rw [timestampOf_broadcastFrame_digits, Timestamp.mk.injEq]
  dsimp only at *
  omega

theorem onesIn_succ (f : Frame) {hi lo : Nat} (hle : lo ≤ hi + 1) :
    onesIn f (hi + 1) lo = onesIn f hi lo + (f.getLsbD (hi + 1)).toNat := by
  rw [onesIn, Nat.sub_add_comm hle, List.range'_1_concat, List.countP_append, List.countP_singleton,
    Nat.add_sub_cancel' hle, onesIn]
  cases f.getLsbD (hi + 1) <;> rfl

/-- A span with the parity of its ones as the bit above it has an even number of ones (R152). -/
theorem onesIn_parityBit {f : Frame} {hi lo : Nat} (hle : lo ≤ hi + 1)
    (hbit : f.getLsbD (hi + 1) = decide (onesIn f hi lo % 2 = 1)) : onesIn f (hi + 1) lo % 2 = 0 := by
  rw [onesIn_succ f hle, hbit]
  by_cases h : onesIn f hi lo % 2 = 1
  · rw [decide_eq_true h, Bool.toNat_true]
    omega
  · rw [decide_eq_false h, Bool.toNat_false]
    omega

/-- The data bits leave the three parity bits 0. -/
theorem getLsbD_dataFrame_parityBit (ts : Timestamp) (low : BitVec 21) (weekday : BitVec 3) {i : Nat}
    (h : i = 28 ∨ i = 35 ∨ i = 58) : (dataFrame ts low weekday).getLsbD i = false := by
  simp (disch := omega) only [dataFrame, setWidth_eq_atIndex low, setWidth_shiftLeft_eq_atIndex weekday,
    BitVec.getLsbD_or, getLsbD_atIndex_outside, Bool.or_false]

/-- Beside its three parity bits a transmitted frame has the data bits. -/
theorem onesIn_broadcastFrame (ts : Timestamp) (low : BitVec 21) (weekday : BitVec 3) {hi lo : Nat}
    (h : hi < 28 ∨ 28 < lo ∧ hi < 35 ∨ 35 < lo ∧ hi < 58) :
    onesIn (broadcastFrame ts low weekday) hi lo = onesIn (dataFrame ts low weekday) hi lo :=
  onesIn_congr fun i h1 h2 => by
    simp (disch := omega) only [broadcastFrame, BitVec.getLsbD_or, getLsbD_atIndex_outside, Bool.or_false]

/-- The three parity bits make the spans of a transmitted frame even (R152). -/
theorem broadcastFrame_even (ts : Timestamp) (low : BitVec 21) (weekday : BitVec 3) :
    onesIn (broadcastFrame ts low weekday) 58 36 % 2 = 0 ∧ onesIn (broadcastFrame ts low weekday) 35 29 % 2 = 0 ∧
    onesIn (broadcastFrame ts low weekday) 28 21 % 2 = 0 := by
  refine ⟨onesIn_parityBit (by decide) ?_, onesIn_parityBit (by decide) ?_, onesIn_parityBit (by decide) ?_⟩ <;>
    rw [onesIn_broadcastFrame ts low weekday (by decide)] <;>
    simp (disch := decide) only [broadcastFrame, BitVec.getLsbD_or, getLsbD_dataFrame_parityBit, getLsbD_atIndex_bit,
      getLsbD_atIndex_outside, Nat.mod_mod, Bool.false_or, Bool.or_false]

/-- Settles O41: the parity bits make the three spans even, and the digits are read back from their groups. -/
theorem broadcastFramesDecodeBack : Obligations.BroadcastFramesDecodeBack :=
  fun ts low weekday hyear1 hyear2 _ hmonth _ hday hhour hminute => (decodeFrame_eq_ok_iff _ ts).2
    ⟨broadcastFrame_even ts low weekday,
      timestampOf_broadcastFrame ts low weekday ⟨hyear1, hyear2⟩ hmonth hday hhour hminute⟩

end Sys2Proof.Machine
end

section
/-! PROOFS. The statements of `43_sample_scheduler.md`: SCH_SCHEDULE (R181), the tags of the requests (R182), the sample
instant (R188), and the FIRE that is accepted or discarded (R184, R185, R187). -/

namespace Sys2Proof.Machine

/-! ### R184 to R187: FIRE -/

/-- Settles O20: the buffer that an accepted FIRE leaves is the one with the level pushed. -/
theorem acceptedFirePushesItsLevel : Obligations.AcceptedFirePushesItsLevel := by
  intro s tag level hrun hbusy htag
  refine ⟨s.buffer.push level, ?_, s.buffer.push_cnt level, s.buffer.push_bits level⟩
  rw [← tickWord_eq]
  exact execFire_accepted tag level s ((s.accepts_iff tag).2 ⟨hrun, hbusy, htag⟩)

/-- Settles O21: each of the three cases fails the acceptance check. -/
theorem otherFiresAreDiscarded : Obligations.OtherFiresAreDiscarded := by
  intro s tag level h
  refine execFire_discarded tag level s (Bool.eq_false_iff.2 fun ha => ?_)
  obtain ⟨hrun, hbusy, htag⟩ := (s.accepts_iff tag).1 ha
  obtain h | h | h := h
  · exact Bool.false_ne_true (h.symm.trans hrun)
  · exact Bool.false_ne_true (h.symm.trans hbusy)
  · exact h htag

/-! ### R181: SCH_SCHEDULE -/

/-- Settles O45: the request's word holds the new tag and, whole, the delay. -/
theorem scheduleRequestsOneSample : Obligations.ScheduleRequestsOneSample := by
  intro s t0
  refine ⟨?_, timerWord (sampleDelay s.nowMs t0) (s.sched.tag + 1), rfl, timerWord_tag _ _, ?_⟩
  · rw [toNat_encode, Instr.operandBits, toNat_place _ _ (by decide)]
    rfl
  · rw [timerWord_delay _ _ (sampleDelay_le _ _), sampleDelay_eq]

/-! ### R188: the sample instant -/

/-- A timestamp moved by the tick difference to it is the later one (R100). -/
theorem add_ofInt_tdiff (a b : Tick) : b + BitVec.ofInt 32 (tdiff a b) = a := by
  rw [tdiff_eq_toInt, BitVec.ofInt_toInt, add_sub_cancel]

/-- Settles O46: within the offset the elapsed time and the delay add up to the offset. -/
theorem sampleInstantIsPinnedToTheEdge : Obligations.SampleInstantIsPinnedToTheEdge := by
  intro now t0
  have hdelay := sampleDelay_eq now t0
  refine ⟨fun h0 h150 => ?_, fun h => by omega, fun h => by omega⟩
  have hsum : tdiff now t0 + sampleDelay now t0 = 150 := by omega
  calc now + BitVec.ofNat 32 (sampleDelay now t0)
      = t0 + BitVec.ofInt 32 (tdiff now t0) + BitVec.ofInt 32 (sampleDelay now t0) := by
        rw [add_ofInt_tdiff, BitVec.ofInt_natCast]
    _ = t0 + BitVec.ofInt 32 (tdiff now t0 + sampleDelay now t0) := by rw [add_assoc, BitVec.ofInt_add]
    _ = t0 + 150 := by rw [hsum]; rfl

/-! ### R182: the tags of the requests -/

/-- The `n` tags after `tag`, in turn, modulo 256 (R182). -/
def tagsAfter (tag : Tag) (n : Nat) : List Tag := (List.range n).map fun j => tag + BitVec.ofNat 8 (j + 1)

@[simp] theorem length_tagsAfter (tag : Tag) (n : Nat) : (tagsAfter tag n).length = n := by
  simp [tagsAfter]

theorem tagsAfter_add (tag : Tag) (m n : Nat) :
    tagsAfter tag (m + n) = tagsAfter tag m ++ tagsAfter (tag + BitVec.ofNat 8 m) n := by
  simp [tagsAfter, List.range_add, Function.comp_def, add_assoc, BitVec.ofNat_add]

/-- Two of the tags at fewer than 256 places from each other differ. -/
theorem tagsAfter_window_nodup (tag : Tag) (n k : Nat) : (((tagsAfter tag n).drop k).take 256).Nodup := by
  refine List.nodup_iff_injective_get.2 fun ⟨i, hi⟩ ⟨j, hj⟩ hij => ?_
  have htags : BitVec.ofNat 8 (k + i + 1) = BitVec.ofNat 8 (k + j + 1) := by simpa [tagsAfter] using hij
  have hmod : (k + i + 1) % 2 ^ 8 = (k + j + 1) % 2 ^ 8 := by simpa using congrArg BitVec.toNat htags
  rw [List.length_take] at hi hj
  have hplaces : i = j := by omega
  exact Fin.ext hplaces

/-- From `s` to `t` there are `n` requests: they carry the tags after `SCHED_TAG` in turn, and the last of them stays in
it (R182). -/
def MakesRequests (n : Nat) (s t : State) : Prop :=
  ∃ new, t.outputs = s.outputs ++ new ∧ requestTags new = tagsAfter s.sched.tag n ∧
    t.sched.tag = s.sched.tag + BitVec.ofNat 8 n

theorem MakesRequests.zero {s t : State} {new : List Output} (ho : t.outputs = s.outputs ++ new)
    (hr : requestTags new = []) (ht : t.sched.tag = s.sched.tag) : MakesRequests 0 s t :=
  ⟨new, ho, hr, ht.trans (add_zero s.sched.tag).symm⟩

theorem MakesRequests.one {s t : State} {new : List Output} (ho : t.outputs = s.outputs ++ new)
    (hr : requestTags new = [s.sched.tag + 1]) (ht : t.sched.tag = s.sched.tag + 1) : MakesRequests 1 s t :=
  ⟨new, ho, hr, ht⟩

theorem MakesRequests.trans {m n : Nat} {s t u : State} (h : MakesRequests m s t) (h' : MakesRequests n t u) :
    MakesRequests (m + n) s u := by
  obtain ⟨new, ho, hr, ht⟩ := h
  obtain ⟨new', ho', hr', ht'⟩ := h'
  refine ⟨new ++ new', ?_, ?_, ?_⟩
  · rw [ho', ho, List.append_assoc]
  · rw [requestTags_append, hr, hr', ht, tagsAfter_add]
  · rw [ht', ht, BitVec.ofNat_add, add_assoc]

/-- SCH_SCHEDULE and an EDGE classified TICK make one request, all else makes none (R181, R205 to R207). -/
theorem exec_makesRequests (i : Instr) (s t : State) (h : exec i s = .next t) :
    ∃ n, MakesRequests n s t ∧ ∀ t0, i = .schSchedule t0 → n = 1 := by
  cases i with
  | schSchedule t0 =>
    cases h
    exact ⟨1, .one rfl (congrArg (· :: []) (timerWord_tag _ _)) rfl, fun _ _ => rfl⟩
  | edge t0 =>
    obtain ⟨-, rfl⟩ | ⟨_, -, -, rfl⟩ | ⟨_, -, -, -, rfl⟩ | ⟨_, -, -, -, rfl⟩ := execEdge_cases s t t0 h
    · exact ⟨0, .zero (List.append_nil _).symm rfl rfl, nofun⟩
    · exact ⟨0, .zero rfl rfl rfl, nofun⟩
    all_goals exact ⟨1, .one rfl (congrArg (· :: []) (timerWord_tag _ _)) rfl, nofun⟩
  | fire tag level =>
    obtain ⟨-, rfl⟩ | ⟨-, -, -, rfl⟩ := execFire_cases s t tag level h
    · exact ⟨0, .zero (List.append_nil _).symm rfl rfl, nofun⟩
    · exact ⟨0, .zero rfl rfl rfl, nofun⟩
  | diag =>
    cases h
    exact ⟨0, .zero rfl rfl rfl, nofun⟩
  | frmDecode =>
    obtain ⟨_, _, rfl⟩ := execFrmDecode_cases s t h
    exact ⟨0, .zero (List.append_nil _).symm rfl rfl, nofun⟩
  | start | stop | trkReset | trkClassify _ | bufReset | bufPush _ | bufIsComplete _ | bufExtract | parFold _ =>
    cases h
    exact ⟨0, .zero (List.append_nil _).symm rfl rfl, nofun⟩

/-- Any instructions performed one after another complete, and their requests follow one another. -/
theorem execAll_makesRequests (is : List Instr) (s : State) : ∃ t n, execAll is s = some t ∧ MakesRequests n s t ∧
    ∀ stamps : List Tick, is = stamps.map .schSchedule → n = stamps.length := by
  induction is generalizing s with
  | nil =>
    refine ⟨s, 0, rfl, .zero (List.append_nil _).symm rfl rfl, fun stamps hs => ?_⟩
    rw [List.map_eq_nil_iff.1 hs.symm, List.length_nil]
  | cons i is ih =>
    obtain ⟨t, ht⟩ := exec_completes i s
    obtain ⟨m, hm, hsingle⟩ := exec_makesRequests i s t ht
    obtain ⟨u, n, hu, hn, hrow⟩ := ih t
    refine ⟨u, m + n, by simpa only [execAll, ht] using hu, hm.trans hn, fun stamps hs => ?_⟩
    obtain ⟨t0, rest, rfl, hi, hrest⟩ := List.map_eq_cons_iff.1 hs.symm
    rw [hsingle t0 hi.symm, hrow rest hrest.symm, List.length_cons, Nat.add_comm]

/-- Settles O47, by induction on the instructions; any 256 tags in turn are distinct modulo 256. -/
theorem requestTagsAreDistinct : Obligations.RequestTagsAreDistinct := by
  refine ⟨fun s is => ?_, ?_⟩
  · obtain ⟨t, n, ht, ⟨new, ho, hr, htag⟩, hrow⟩ := execAll_makesRequests is s
    refine ⟨t, new, ht, ho, ?_⟩
    rw [hr, length_tagsAfter]
    exact ⟨rfl, htag, tagsAfter_window_nodup s.sched.tag n, hrow⟩
  · rintro i s t (rfl | rfl) h <;> cases h <;> rfl

end Sys2Proof.Machine
end

section
/-! PROOFS. The statements of `44_controller.md`: a step and the word it takes (R200), the five commands (R201 to R209), the
transition table (R211), and a minute of seconds with its report (R210, R212). -/

namespace Sys2Proof.Machine

/-! ### R200: the step that takes a word -/

theorem step_command {s : State} {w : Word} {now : Tick} {rest : List Input} {i : Instr}
    (hp : s.pending = .command w now :: rest) (hd : decodeWord w = .ok i) (hf : i.format = .cmd) :
    step s = exec i (s.beginCommand now rest) := by
  simp only [step, hp, (acceptCommand_ok w i).2 ⟨hd, hf⟩]

theorem step_microOp {s : State} {w : Word} {now : Tick} {rest : List Input} {i : Instr}
    (hp : s.pending = .microOp w now :: rest) (hd : decodeWord w = .ok i) (hf : i.format = .uop) :
    step s = exec i (s.beginMicroOp now rest) := by
  simp only [step, hp, (acceptMicroOp_ok w i).2 ⟨hd, hf⟩]

/-- Settles O6. -/
theorem stepPerformsTheDecodedWord : Obligations.StepPerformsTheDecodedWord :=
  fun _ _ _ _ _ hd => ⟨fun hp hf => step_command hp hd hf, fun hp hf => step_microOp hp hd hf⟩

theorem tableWord_toNat (w : Word) : tableWord 64 w.toNat = w := by
  rw [tableWord, Nat.mod_eq_of_lt w.isLt, BitVec.ofNat_toNat, BitVec.setWidth_eq]

/-- A UOP opcode is issued as a micro-operation (R60). -/
theorem offerWord_encode_of_uop {i : Instr} (hf : i.format = .uop) (now : Tick) :
    offerWord (encode i) now = .microOp (encode i) now := by
  rw [offerWord, bitsAt_encode_opcode]
  cases i with
  | start | stop | edge _ | fire _ _ | diag => cases hf
  | _ => rfl

theorem withFetchWord_pending (s : State) (i : Instr) :
    (s.withFetchWord 64 (encode i).toNat).pending = offerWord (encode i) s.nowMs :: s.pending := by
  rw [State.withFetchWord, tableWord_toNat]

/-- Settles O7: the placed word stands on the port of its format and decodes back to its instruction. -/
theorem placedWordIsPerformedNext : Obligations.PlacedWordIsPerformedNext := by
  intro s i
  have hp := withFetchWord_pending s i
  cases hf : i.format with
  | cmd =>
    rw [offerWord_encode_of_cmd hf] at hp
    exact step_command hp (decodeWord_encode i) hf
  | uop =>
    rw [offerWord_encode_of_uop hf] at hp
    exact step_microOp hp (decodeWord_encode i) hf

/-! ### R22: the Controller's state, by the registers -/

theorem State.phase_idle {s : State} (hr : s.control.run = false) : s.phase = .idle := by
  rw [s.phase_eq, if_pos hr]

theorem State.phase_running {s : State} (hr : s.control.run = true) : s.phase =
    if s.tracker.len = 0 then .armed else if s.tracker.len = 3 then .accumulating else .calibrating := by
  rw [s.phase_eq, if_neg (by simp [hr])]

theorem State.phase_armed {s : State} (hr : s.control.run = true) (hl : s.tracker.len = 0) : s.phase = .armed := by
  rw [State.phase_running hr, if_pos hl]

theorem State.phase_accumulating {s : State} (hr : s.control.run = true) (hl : s.tracker.len = 3) :
    s.phase = .accumulating := by
  rw [State.phase_running hr, hl]
  rfl

theorem State.phase_calibrating {s : State} (hr : s.control.run = true) (hl : s.tracker.len = 1 ∨ s.tracker.len = 2) :
    s.phase = .calibrating := by
  rw [State.phase_running hr]
  obtain hl | hl := hl <;> rw [hl] <;> rfl

/-- The four states, each with the registers that stand behind it (R22). -/
theorem State.phase_cases (s : State) :
    (s.phase = .idle ∧ s.control.run = false) ∨ (s.phase = .armed ∧ s.control.run = true ∧ s.tracker.len = 0) ∨
    (s.phase = .calibrating ∧ s.control.run = true ∧ (s.tracker.len = 1 ∨ s.tracker.len = 2)) ∨
    (s.phase = .accumulating ∧ s.control.run = true ∧ s.tracker.len = 3) := by
  cases hr : s.control.run with
  | false => exact .inl ⟨State.phase_idle hr, rfl⟩
  | true =>
    obtain hl | hl | hl | hl := histLen_cases s.tracker.len
    · exact .inr (.inl ⟨State.phase_armed hr hl, rfl, hl⟩)
    · exact .inr (.inr (.inl ⟨State.phase_calibrating hr (.inl hl), rfl, .inl hl⟩))
    · exact .inr (.inr (.inl ⟨State.phase_calibrating hr (.inr hl), rfl, .inr hl⟩))
    · exact .inr (.inr (.inr ⟨State.phase_accumulating hr hl, rfl, hl⟩))

theorem State.phase_ne_idle_iff (s : State) : s.phase ≠ .idle ↔ s.control.run = true := by
  obtain ⟨h, hr⟩ | ⟨h, hr, -⟩ | ⟨h, hr, -⟩ | ⟨h, hr, -⟩ := s.phase_cases <;> simp [h, hr]

/-! ### R201 and R202: START and STOP -/

/-- Settles O14: with no request outstanding the acceptance check fails. -/
theorem startRestartsEveryUnit : Obligations.StartRestartsEveryUnit :=
  ⟨rfl, fun _ => ⟨_, rfl, rfl, State.phase_armed rfl rfl, fun tag level => execFire_discarded tag level _ rfl⟩⟩

/-- Settles O15: while Idle an EDGE is ignored and the acceptance check fails. -/
theorem stopKeepsBufferAndHistory : Obligations.StopKeepsBufferAndHistory :=
  ⟨rfl, fun _ => ⟨_, rfl, rfl, State.phase_idle rfl, rfl, fun t0 => execEdge_idle t0 _ rfl,
    fun tag level => execFire_discarded tag level _ rfl⟩⟩

/-! ### R203 to R208: EDGE by its classification, and the FIRE that answers it -/

/-- Settles O16. -/
theorem edgeWhileIdleIsIgnored : Obligations.EdgeWhileIdleIsIgnored :=
  fun s t0 hr => execEdge_idle t0 s hr

theorem exec_edge_of_invalid {s : State} {t0 : Tick} {tr : Tracker} {r : TickReason} (hr : s.control.run = true)
    (hc : s.tracker.classify t0 = (tr, .invalid r)) : exec (.edge t0) s = .next { s with
      tracker := tr, outputs := s.outputs ++ [.event (tickErrorWord r)] } := by
  refine (execEdge_running t0 s hr).trans ?_
  rw [hc]
  rfl

theorem exec_edge_of_ordinaryTick {s : State} {t0 : Tick} {tr : Tracker} (hr : s.control.run = true)
    (hc : s.tracker.classify t0 = (tr, .tick 1)) : exec (.edge t0) s = .next { s with
      tracker := tr
      sched := ⟨true, s.sched.tag + 1⟩
      outputs := s.outputs ++ [.timerReq (timerWord (sampleDelay s.nowMs t0) (s.sched.tag + 1))] } := by
  refine (execEdge_running t0 s hr).trans ?_
  rw [hc]
  rfl

theorem exec_edge_of_boundary {s : State} {t0 : Tick} {tr : Tracker} {n : Nat} (hr : s.control.run = true)
    (hc : s.tracker.classify t0 = (tr, .tick n)) (hn : 2 ≤ n) : exec (.edge t0) s = .next { s with
      tracker := tr
      buffer := ⟨0, 0⟩
      sched := ⟨true, s.sched.tag + 1⟩
      outputs := s.outputs ++ [.event (frameReport s.buffer),
        .timerReq (timerWord (sampleDelay s.nowMs t0) (s.sched.tag + 1))] } := by
  have hb : boundary n = true := decide_eq_true hn
  refine (execEdge_running t0 s hr).trans ?_
  simp only [hc, State.afterClassify, hb, if_true, State.schedule_eq, State.closeFrame_eq, List.append_assoc]
  rfl

/-- Settles O17: each reason has its word, and an edge that calibrates either fits the history or does not. -/
theorem invalidEdgeOnlyReports : Obligations.InvalidEdgeOnlyReports := by
  refine ⟨fun s t0 r hr hc => ?_, fun tr t0 hl => ?_⟩
  · rw [exec_edge_of_invalid hr (Prod.ext rfl hc)]
    cases r <;> rfl
  · by_cases hf : tr.fits t0
    · exact ⟨.calibrating, by rw [tr.classify_of_fits t0 hl hf]⟩
    · exact ⟨.calMismatch, by rw [tr.classify_of_not_fits t0 hl hf]⟩

/-- The word of a sample request holds its tag and, whole, its delay (R72, R181). -/
theorem sampleRequest_fields (now t0 : Tick) (tag : Tag) :
    (timerWord (sampleDelay now t0) tag).extractLsb' 8 8 = tag ∧
    (((timerWord (sampleDelay now t0) tag).extractLsb' 0 8).toNat : Int) = 150 - min (max (tdiff now t0) 0) 150 := by
  rw [timerWord_tag, timerWord_delay _ _ (sampleDelay_le _ _), sampleDelay_eq]
  exact ⟨rfl, rfl⟩

theorem exec_fire_of_accepts {s : State} {tag : Tag} (level : Bool) (ha : s.accepts tag = true) :
    exec (.fire tag level) s = .next { s with
      buffer := s.buffer.push level
      sched := ⟨false, s.sched.tag⟩
      outputs := s.outputs ++ [.event (if level then 0x101 else 0x001)] } := by
  rw [← tickWord_eq]
  exact execFire_accepted tag level s ha

/-- Settles O18: the request carries the new `SCHED_TAG`, so the FIRE that answers it is accepted. -/
theorem ordinaryTickSchedulesItsSample : Obligations.OrdinaryTickSchedulesItsSample := by
  intro s t0 hr hc
  obtain ⟨htag, hdelay⟩ := sampleRequest_fields s.nowMs t0 (s.sched.tag + 1)
  exact ⟨_, _, exec_edge_of_ordinaryTick hr (Prod.ext rfl hc), rfl, htag, hdelay,
    fun level => exec_fire_of_accepts level ((State.accepts_iff _ _).2 ⟨hr, rfl, rfl⟩)⟩

/-! ### R207: the report of a minute boundary -/

theorem frameReport_of_short {b : Buffer} (h : b.cnt.toNat < 59) : frameReport b = 0x004 := by
  rw [frameReport, b.extract_of_short h]
  rfl

theorem frameReport_of_full {b : Buffer} (h : 59 ≤ b.cnt.toNat) : frameReport b =
    if onesIn b.bits 58 36 % 2 = 1 then 0x104
    else if onesIn b.bits 35 29 % 2 = 1 then 0x204
    else if onesIn b.bits 28 21 % 2 = 1 then 0x304
    else syncWord (timestampOf b.bits) := by
  rw [frameReport, b.extract_of_full h]
  simp only [decodeFrame_eq]
  split_ifs <;> rfl

theorem kindOf_frameReport (b : Buffer) : kindOf (frameReport b) = 2 ∨ kindOf (frameReport b) = 4 := by
  obtain ⟨-, e⟩ | ⟨-, k, -, e⟩ | ⟨-, ts, -, e⟩ := frameReport_cases b <;> rw [e]
  · exact .inr (kindOf_beaconErrorWord _)
  · exact .inr (kindOf_beaconErrorWord k)
  · exact .inl (kindOf_syncWord ts)

/-- The SYNC word of a frame holds the five numbers its digits spell (R71, R156). -/
theorem syncWord_timestampOf_digits (f : Frame) :
    (bitsAt (syncWord (timestampOf f)) 48 12).toNat = 2000 + digits f 53 50 + 10 * digits f 57 54 ∧
    (bitsAt (syncWord (timestampOf f)) 40 5).toNat = digits f 48 45 + 10 * digits f 49 49 ∧
    (bitsAt (syncWord (timestampOf f)) 32 6).toNat = digits f 39 36 + 10 * digits f 41 40 ∧
    (bitsAt (syncWord (timestampOf f)) 24 6).toNat = digits f 32 29 + 10 * digits f 34 33 ∧
    (bitsAt (syncWord (timestampOf f)) 16 7).toNat = digits f 24 21 + 10 * digits f 27 25 := by
  obtain ⟨hminute, hhour, hday, hmonth, hyear⟩ := (timestampOf_inRange f).syncWord_whole
  rw [hminute, hhour, hday, hmonth, hyear]
  simp (disch := decide) only [timestampOf, group_eq_digits, Config.yearBase_val, and_self]

/-- Settles O19: the report is that of the buffer before the edge, the request is the edge's own. -/
theorem boundaryEdgeReportsTheFrame : Obligations.BoundaryEdgeReportsTheFrame := by
  intro s t0 n hr hc hn
  obtain ⟨htag, hdelay⟩ := sampleRequest_fields s.nowMs t0 (s.sched.tag + 1)
  refine ⟨frameReport s.buffer, _, exec_edge_of_boundary hr (Prod.ext rfl hc) hn, htag, hdelay, ?_⟩
  split_ifs with hshort hdate hhour hminute
  · exact frameReport_of_short hshort
  all_goals rw [frameReport_of_full (Nat.not_lt.1 hshort)]
  · rw [if_pos hdate]
  · rw [if_neg hdate, if_pos hhour]
  · rw [if_neg hdate, if_neg hhour, if_pos hminute]
  · rw [if_neg hdate, if_neg hhour, if_neg hminute]
    exact ⟨kindOf_syncWord _, syncWord_timestampOf_digits s.buffer.bits⟩

/-! ### R209: DIAG -/

theorem diagWord0_flags (s : State) :
    s.diagWord0.getLsbD 0 = s.control.run ∧ s.diagWord0.getLsbD 1 = s.control.rxEnable ∧
    s.diagWord0.getLsbD 2 = s.control.edgeNotifyEn ∧ s.diagWord0.getLsbD 3 = s.sched.busy := by
  simp (disch := decide) only [← flagAt.eq_def, State.diagWord0, flagAt_or, flagAt_place_ofBool, flagAt_place_disjoint,
    Bool.false_or, Bool.or_false, and_self]

theorem diagWord0_fields (s : State) :
    bitsAt s.diagWord0 4 2 = s.tracker.len ∧ bitsAt s.diagWord0 6 2 = 0 ∧ bitsAt s.diagWord0 8 8 = s.sched.tag ∧
    bitsAt s.diagWord0 16 6 = s.buffer.cnt ∧ bitsAt s.diagWord0 22 42 = 0 := by
  simp (disch := decide) only [State.diagWord0, bitsAt_or, bitsAt_place_eq, bitsAt_place_disjoint, BitVec.ofNat_eq_ofNat,
    BitVec.or_zero, BitVec.zero_or, and_self]

/-- Settles O22: each register is placed in its own field, and no field reaches another. -/
theorem diagPresentsTheRegisters : Obligations.DiagPresentsTheRegisters := by
  refine ⟨rfl, fun s => ⟨_, _, _, _, rfl, ?_⟩⟩
  obtain ⟨hrun, hrx, hnotify, hbusy⟩ := diagWord0_flags s
  obtain ⟨hlen, h6, htag, hcnt, h22⟩ := diagWord0_fields s
  refine ⟨hrun, hrx, hnotify, hbusy, hlen, h6, htag, hcnt, h22, ?_⟩
  simp (disch := decide) only [bitsAt_or, bitsAt_place_eq, bitsAt_place_disjoint, BitVec.ofNat_eq_ofNat,
    BitVec.or_zero, BitVec.zero_or, and_self]

/-! ### R211: the transition table -/

/-- EDGE `t0` completes, presents `new` and leaves the Controller in the state `p`. -/
def State.EdgeLeadsTo (s : State) (t0 : Tick) (p : Phase) (new : List Output) : Prop :=
  ∃ t, exec (.edge t0) s = .next t ∧ t.outputs = s.outputs ++ new ∧ t.phase = p

theorem edgeLeadsTo_of_idle {s : State} (t0 : Tick) (hr : s.control.run = false) : s.EdgeLeadsTo t0 .idle [] :=
  ⟨s, execEdge_idle t0 s hr, (List.append_nil _).symm, State.phase_idle hr⟩

/-- A fitting edge adds the entry that is missing to the history: the first, the second, or the third, which locks. -/
theorem edgeLeadsTo_of_fits {s : State} {t0 : Tick} (hr : s.control.run = true) (hl : s.tracker.len.toNat < 3)
    (hf : s.tracker.fits t0) :
    s.EdgeLeadsTo t0 (if s.tracker.len = 2 then .accumulating else .calibrating) [.event 0x003] := by
  refine ⟨_, exec_edge_of_invalid hr (s.tracker.classify_of_fits t0 hl hf), rfl, ?_⟩
  obtain h | h | h | h := histLen_cases s.tracker.len
  · rw [if_neg (by simp [h])]
    exact State.phase_calibrating hr (.inl (by simp [h]))
  · rw [if_neg (by simp [h])]
    exact State.phase_calibrating hr (.inr (by simp [h]))
  · rw [if_pos h]
    exact State.phase_accumulating hr (by simp [h])
  · simp [h] at hl

theorem edgeLeadsTo_of_not_fits {s : State} {t0 : Tick} (hr : s.control.run = true) (hl : s.tracker.len.toNat < 3)
    (hf : ¬ s.tracker.fits t0) : s.EdgeLeadsTo t0 .armed [.event 0x103] :=
  ⟨_, exec_edge_of_invalid hr (s.tracker.classify_of_not_fits t0 hl hf), rfl, State.phase_armed hr rfl⟩

/-- The row of R211 for an EDGE while Accumulating: the state and the outputs it leads to, by the classification. -/
def Classification.LeadsTo (c : Classification) (p : Phase) (new : List Output) : Prop :=
  match c with
  | .invalid .early => p = .accumulating ∧ new = [.event 0x203]
  | .invalid .lost => p = .armed ∧ new = [.event 0x303]
  | .invalid _ => False
  | .tick n => p = .accumulating ∧ ∃ req, (n = 1 ∧ new = [.timerReq req]) ∨
      ((n = 2 ∨ n = 3) ∧ ∃ w, (kindOf w = 2 ∨ kindOf w = 4) ∧ new = [.event w, .timerReq req])

theorem edge_from_accumulating {s : State} (t0 : Tick) (hr : s.control.run = true) (hl : s.tracker.len = 3) :
    ∃ p new, s.EdgeLeadsTo t0 p new ∧ (s.tracker.classify t0).2.LeadsTo p new := by
  cases hc : (s.tracker.classify t0).2 with
  | invalid r =>
    obtain ⟨-, h, -⟩ | ⟨-, h, -⟩ | ⟨rfl, -, e, -⟩ | ⟨rfl, -, e, -⟩ := s.tracker.classify_invalid t0 r hc
    · exact absurd hl h
    · exact absurd hl h
    · have hx := exec_edge_of_invalid hr (Prod.ext e hc)
      exact ⟨_, _, ⟨_, hx, rfl, State.phase_accumulating hr hl⟩, rfl, rfl⟩
    · have hx := exec_edge_of_invalid hr (Prod.ext e hc)
      exact ⟨_, _, ⟨_, hx, rfl, State.phase_armed hr rfl⟩, rfl, rfl⟩
  | tick n =>
    obtain ⟨-, -, e, hn⟩ := s.tracker.classify_tick t0 n hc
    obtain rfl | hn : n = 1 ∨ n = 2 ∨ n = 3 := by omega
    · have hx := exec_edge_of_ordinaryTick hr (Prod.ext e hc)
      exact ⟨_, _, ⟨_, hx, rfl, State.phase_accumulating hr rfl⟩, rfl, _, .inl ⟨rfl, rfl⟩⟩
    · have hx := exec_edge_of_boundary hr (Prod.ext e hc) (by omega)
      exact ⟨_, _, ⟨_, hx, rfl, State.phase_accumulating hr rfl⟩, rfl, _, .inr ⟨hn, _, kindOf_frameReport _, rfl⟩⟩

theorem exec_fire_by_acceptance (s : State) (tag : Tag) (level : Bool) :
    ∃ t, exec (.fire tag level) s = .next t ∧ t.phase = s.phase ∧
    (s.accepts tag = true → t.outputs = s.outputs ++ [.event (if level then 0x101 else 0x001)]) ∧
    (s.accepts tag = false → t.outputs = s.outputs) := by
  cases ha : s.accepts tag with
  | true => exact ⟨_, exec_fire_of_accepts level ha, rfl, fun _ => rfl, nofun⟩
  | false => exact ⟨s, execFire_discarded tag level s ha, rfl, nofun, fun _ => rfl⟩

/-- Settles O23: an EDGE while calibrating fits the history or does not, and while accumulating follows its
classification. -/
theorem controllerTransitionTable : Obligations.ControllerTransitionTable := by
  intro s
  refine ⟨⟨_, rfl, State.phase_armed rfl rfl, rfl⟩, ⟨_, rfl, State.phase_idle rfl, rfl⟩,
    ⟨_, rfl, rfl, _, _, _, _, rfl⟩, fun tag level => ?_, fun t0 => ?_⟩
  · obtain ⟨t, hx, hphase, hyes, hno⟩ := exec_fire_by_acceptance s tag level
    exact ⟨t, hx, hphase, by rw [s.phase_ne_idle_iff, s.accepts_iff], hyes, hno⟩
  · obtain ⟨h, hr⟩ | ⟨h, hr, hl⟩ | ⟨h, hr, hl⟩ | ⟨h, hr, hl⟩ := s.phase_cases <;> rw [h]
    · obtain ⟨t, hx, ho, hphase⟩ := edgeLeadsTo_of_idle t0 hr
      exact ⟨t, _, hx, ho, hphase, rfl⟩
    · obtain ⟨t, hx, ho, hphase⟩ :=
        edgeLeadsTo_of_fits (t0 := t0) hr (by simp [hl]) (by simp [Tracker.fits, hl])
      exact ⟨t, _, hx, ho, by simpa [hl] using hphase, rfl⟩
    · have hlt : s.tracker.len.toNat < 3 := by obtain hl | hl := hl <;> simp [hl]
      by_cases hf : s.tracker.fits t0
      · obtain ⟨t, hx, ho, hphase⟩ := edgeLeadsTo_of_fits hr hlt hf
        exact ⟨t, _, hx, ho, hl, fun _ h1 => ⟨by simpa [h1] using hphase, rfl⟩,
          fun _ h2 => ⟨by simpa [h2] using hphase, rfl⟩, fun hn => absurd hf hn⟩
      · obtain ⟨t, hx, ho, hphase⟩ := edgeLeadsTo_of_not_fits hr hlt hf
        exact ⟨t, _, hx, ho, hl, fun hf' => absurd hf' hf, fun hf' => absurd hf' hf, fun _ => ⟨hphase, rfl⟩⟩
    · obtain ⟨p, new, ⟨t, hx, ho, rfl⟩, hrow⟩ := edge_from_accumulating t0 hr hl
      exact ⟨t, new, hx, ho, hrow⟩

/-! ### R210 and R212: the seconds of a minute -/

@[simp] theorem events_nil : events [] = [] := rfl
@[simp] theorem events_cons_event (w : Word) (os : List Output) : events (.event w :: os) = w :: events os := rfl
@[simp] theorem events_cons_timerReq (w : TimerWord) (os : List Output) : events (.timerReq w :: os) = events os := rfl
@[simp] theorem events_append (a b : List Output) : events (a ++ b) = events a ++ events b := List.filterMap_append

/-- The block runs locked with the reference `ref`, its buffer and scheduler are `b` and `sc`, it has presented the events
`evs`, and `rest` is offered. -/
structure State.RunsLocked (s : State) (ref : Tick) (b : Buffer) (sc : Scheduler) (evs : List Word) (rest : List Input) :
    Prop where
  running : s.control.run = true
  locked : s.tracker.len = 3
  reference : s.tracker.h0 = ref
  buffer : s.buffer = b
  sched : s.sched = sc
  events : events s.outputs = evs
  pending : s.pending = rest

section

variable {s : State} {ref now : Tick} {b : Buffer} {sc : Scheduler} {evs : List Word} {rest : List Input}

/-- An edge in window `k` is classified TICK(k) and becomes the reference, wherever the tick counter stands (R100, R107). -/
theorem State.RunsLocked.classify {d : Tick} {k : Nat} (hs : s.RunsLocked ref b sc evs rest)
    (hk : windowOf d.toInt = some k) :
    s.tracker.classify (ref + d) = (⟨3, ref + d, ref, s.tracker.h1⟩, .tick k) := by
  have hw : windowOf (tdiff (ref + d) s.tracker.h0) = some k := by rw [hs.reference, tdiff_add_self, hk]
  rw [s.tracker.classify_of_window _ k hs.locked hw, hs.reference]

theorem step_ordinaryEdge (hs : s.RunsLocked ref b sc evs (.command (encode (.edge (ref + 1000))) now :: rest)) :
    ∃ t, step s = .next t ∧ t.RunsLocked (ref + 1000) b ⟨true, sc.tag + 1⟩ evs rest := by
  have hc := hs.classify (d := 1000) (k := 1) (by decide)
  obtain ⟨hr, -, -, rfl, rfl, rfl, hp⟩ := hs
  exact ⟨_, (step_command hp (decodeWord_encode _) rfl).trans (exec_edge_of_ordinaryTick hr hc),
    hr, rfl, rfl, rfl, rfl, by simp, rfl⟩

theorem step_boundaryEdge (hs : s.RunsLocked ref b sc evs (.command (encode (.edge (ref + 2000))) now :: rest)) :
    ∃ t, step s = .next t ∧
      t.RunsLocked (ref + 2000) Buffer.empty ⟨true, sc.tag + 1⟩ (evs ++ [frameReport b]) rest := by
  have hc := hs.classify (d := 2000) (k := 2) (by decide)
  obtain ⟨hr, -, -, rfl, rfl, rfl, hp⟩ := hs
  exact ⟨_, (step_command hp (decodeWord_encode _) rfl).trans (exec_edge_of_boundary hr hc le_rfl),
    hr, rfl, rfl, rfl, rfl, by simp, rfl⟩

/-- The FIRE that answers the outstanding request pushes its level and emits TICK (R185, R208). -/
theorem step_answeringFire {tag : Tag} {level : Bool}
    (hs : s.RunsLocked ref b ⟨true, tag⟩ evs (.command (encode (.fire tag level)) now :: rest)) :
    ∃ t, step s = .next t ∧
      t.RunsLocked ref (b.push level) ⟨false, tag⟩ (evs ++ [if level then 0x101 else 0x001]) rest := by
  obtain ⟨hr, hl, href, rfl, hsched, rfl, hp⟩ := hs
  have ha : (s.beginCommand now rest).accepts tag = true := (State.accepts_iff _ _).2 (by simp [hr, hsched])
  exact ⟨_, (step_command hp (decodeWord_encode _) rfl).trans (exec_fire_of_accepts level ha),
    hr, hl, href, rfl, by simp [hsched], by simp, rfl⟩

end

/-- The seconds of a minute, one after another: each pushes its bit and emits its TICK. -/
theorem reaches_seconds (bits : List Bool) {s : State} {ref : Tick} {b : Buffer} {sc : Scheduler} {evs : List Word}
    {rest : List Input} (hs : s.RunsLocked ref b sc evs (seconds (ref + 1000) sc.tag bits ++ rest)) :
    ∃ t sc', Reaches s t ∧ t.RunsLocked (ref + BitVec.ofNat 32 (1000 * bits.length)) (bits.foldl Buffer.push b) sc'
      (evs ++ bits.map fun b => if b then 0x101 else 0x001) rest := by
  induction bits generalizing s ref b sc evs with
  | nil => exact ⟨s, sc, .refl s, by simpa [seconds] using hs⟩
  | cons bit bits ih =>
    obtain ⟨t, hst, ht⟩ := step_ordinaryEdge hs
    obtain ⟨u, htu, hu⟩ := step_answeringFire ht
    obtain ⟨v, sc', huv, hv⟩ := ih hu
    refine ⟨v, sc', .step hst (.step htu huv), ?_⟩
    have hstamp : ref + 1000 + BitVec.ofNat 32 (1000 * bits.length) =
        ref + BitVec.ofNat 32 (1000 * (bits.length + 1)) := by
      rw [Nat.mul_succ, Nat.add_comm, BitVec.ofNat_add, add_assoc]
      rfl
    rwa [hstamp, List.append_assoc] at hv

/-- The first edge, 1000 or 2000 ms after the reference, of a block with an empty buffer: the latter reports it. -/
theorem step_firstEdge {s : State} {ref now : Tick} {sc : Scheduler} {evs : List Word} {rest : List Input} {k : Nat}
    (hk : k = 1 ∨ k = 2)
    (hs : s.RunsLocked ref Buffer.empty sc evs
      (.command (encode (.edge (ref + BitVec.ofNat 32 (1000 * k)))) now :: rest)) :
    ∃ t, step s = .next t ∧ t.RunsLocked (ref + BitVec.ofNat 32 (1000 * k)) Buffer.empty ⟨true, sc.tag + 1⟩
      (evs ++ if k = 2 then [0x004] else []) rest := by
  obtain rfl | rfl := hk
  · simpa using step_ordinaryEdge hs
  · exact step_boundaryEdge hs

/-- A frame that agrees with the pushed bits is what the buffer holds (R30). -/
theorem eq_pushAll_bits {bits : List Bool} {f : Frame} (hf : ∀ i, i < 59 → f.getLsbD i = bits.getD i false) :
    f = (pushAll bits).bits :=
  BitVec.eq_of_getLsbD_eq fun i hi => (hf i hi).trans (pushAll_bits bits i hi).symm

theorem Reaches.trans {s t u : State} (h : Reaches s t) (h' : Reaches t u) : Reaches s u := by
  induction h with
  | refl s => exact h'
  | step hst _ ih => exact .step hst (ih h')

/-- Settles O58: the first edge, its FIRE, the remaining seconds by induction, and the boundary that reports them. -/
theorem cleanMinuteReportsItsFrame : Obligations.CleanMinuteReportsItsFrame := by
  intro s k bits f now rest hr hl hb hk hne hlen hf hp
  obtain ⟨bit, bits, rfl⟩ := List.exists_cons_of_ne_nil hne
  obtain ⟨t, hst, ht⟩ := step_firstEdge hk ⟨hr, hl, rfl, hb, rfl, rfl, hp⟩
  obtain ⟨u, htu, hu⟩ := step_answeringFire ht
  obtain ⟨v, sc, huv, hv⟩ := reaches_seconds bits hu
  have hstamp : s.tracker.h0 + BitVec.ofNat 32 (1000 * (k + (bit :: bits).length + 1)) =
      s.tracker.h0 + BitVec.ofNat 32 (1000 * k) + BitVec.ofNat 32 (1000 * bits.length) + 2000 := by
    rw [List.length_cons, (by ring : 1000 * (k + (bits.length + 1) + 1) = 1000 * k + 1000 * bits.length + 2000),
      BitVec.ofNat_add, BitVec.ofNat_add, ← add_assoc, ← add_assoc]
    rfl
  rw [hstamp] at hv
  obtain ⟨w, hvw, hw⟩ := step_boundaryEdge hv
  refine ⟨w, frameReport (pushAll (bit :: bits)), .step hst (.step htu (huv.trans (.step hvw (.refl w)))), hw.pending,
    hw.buffer, hw.locked, by rw [hw.sched], ?_, fun hshort => ?_, fun hfull => ?_⟩
  · simpa only [List.append_assoc, List.map_cons, List.cons_append, List.nil_append, pushAll, List.foldl_cons]
      using hw.events
  · exact frameReport_of_short (by rw [pushAll_cnt]; omega)
  · rw [frameReport_of_full (by rw [pushAll_cnt]; omega), ← eq_pushAll_bits hf, decodeFrame_eq]
    split_ifs <;> rfl

end Sys2Proof.Machine
end

section
/-! PROOFS. The statements of `60_exceptions.md`: every instruction completes (R243), what a step reports (R244), and the
silence of a stopped engine (R257). -/

namespace Sys2Proof.Machine

/-! ### R243: no error is fatal -/

/-- Settles O49. -/
theorem everyInstructionCompletes : Obligations.EveryInstructionCompletes := exec_completes

/-! ### R69: what an instruction presents -/

/-- The instruction `i`, performed in `s`, may present `new`: its outputs, and that a FIRE or an EDGE presents anything
only while the engine runs (R69, R204 to R209). -/
inductive State.MayPresent (s : State) : Instr → List Output → Prop where
  | nothing (i : Instr) : s.MayPresent i []
  | record : s.MayPresent .diag [s.diagRecord]
  | request (t0 : Tick) (req : TimerWord) : s.MayPresent (.schSchedule t0) [.timerReq req]
  | tick (tag : Tag) (level : Bool) : s.control.run = true → s.MayPresent (.fire tag level) [.event (tickWord level)]
  | tickError (t0 : Tick) (r : TickReason) : s.control.run = true →
      s.MayPresent (.edge t0) [.event (tickErrorWord r)]
  | second (t0 : Tick) (req : TimerWord) : s.control.run = true → s.MayPresent (.edge t0) [.timerReq req]
  | minute (t0 : Tick) (req : TimerWord) : s.control.run = true →
      s.MayPresent (.edge t0) [.event (frameReport s.buffer), .timerReq req]

theorem mayPresent_of_unchanged {s t : State} {i : Instr} (ho : t.outputs = s.outputs) :
    ∃ new, t.outputs = s.outputs ++ new ∧ s.MayPresent i new :=
  ⟨[], by rw [ho, List.append_nil], .nothing i⟩

/-- Every instruction only appends to the outputs, and only what it may present. -/
theorem exec_mayPresent (i : Instr) (s t : State) (h : exec i s = .next t) :
    ∃ new, t.outputs = s.outputs ++ new ∧ s.MayPresent i new := by
  cases i with
  | edge t0 =>
    obtain ⟨-, rfl⟩ | ⟨r, hr, -, rfl⟩ | ⟨_, hr, -, -, rfl⟩ | ⟨_, hr, -, -, rfl⟩ := execEdge_cases s t t0 h
    · exact mayPresent_of_unchanged rfl
    · exact ⟨_, rfl, .tickError t0 r hr⟩
    · exact ⟨_, rfl, .second t0 _ hr⟩
    · exact ⟨_, rfl, .minute t0 _ hr⟩
  | fire tag level =>
    obtain ⟨-, rfl⟩ | ⟨hr, -, -, rfl⟩ := execFire_cases s t tag level h
    · exact mayPresent_of_unchanged rfl
    · exact ⟨_, rfl, .tick tag level hr⟩
  | diag => cases h; exact ⟨_, rfl, .record⟩
  | schSchedule t0 => cases h; exact ⟨_, rfl, .request t0 _⟩
  | frmDecode =>
    obtain ⟨_, _, rfl⟩ := execFrmDecode_cases s t h
    exact mayPresent_of_unchanged rfl
  | start | stop | trkReset | trkClassify _ | bufReset | bufPush _ | bufIsComplete _ | bufExtract | parFold _ =>
    cases h
    exact mayPresent_of_unchanged rfl

/-! ### R244: one report per step -/

@[simp] theorem timerRequests_nil : timerRequests [] = [] := rfl
@[simp] theorem timerRequests_cons_event (w : Word) (os : List Output) :
    timerRequests (.event w :: os) = timerRequests os := rfl
@[simp] theorem timerRequests_cons_timerReq (w : TimerWord) (os : List Output) :
    timerRequests (.timerReq w :: os) = w :: timerRequests os := rfl
@[simp] theorem timerRequests_append (a b : List Output) :
    timerRequests (a ++ b) = timerRequests a ++ timerRequests b := List.filterMap_append

@[simp] theorem events_diagRecord (s : State) : events [s.diagRecord] = [] := rfl
@[simp] theorem timerRequests_diagRecord (s : State) : timerRequests [s.diagRecord] = [] := rfl

theorem kindOf_tickWord (level : Bool) : kindOf (tickWord level) = 1 := by
  cases level <;> decide

theorem kindOf_frameReport_ne_tickError (b : Buffer) : kindOf (frameReport b) ≠ 3 := by
  have := kindOf_frameReport b
  omega

/-- Settles O51: a TICK_ERROR stands alone, and the report before a request is no TICK_ERROR. -/
theorem oneReportPerStep : Obligations.OneReportPerStep := by
  intro i s t h
  obtain ⟨new, ho, hnew⟩ := exec_mayPresent i s t h
  refine ⟨new, ho, ?_⟩
  cases hnew with
  | nothing | record | request t0 req => simp
  | tick tag level => simp [kindOf_tickWord]
  | tickError t0 r => simp
  | second t0 req => simp
  | minute t0 req => simp [kindOf_frameReport_ne_tickError]

/-! ### R257: a stopped engine -/

/-- A command that a stopped engine takes presents at most the record of DIAG (R187, R204). -/
theorem State.MayPresent.silent_of_stopped {s : State} {i : Instr} {new : List Output} (hnew : s.MayPresent i new)
    (hf : i.format = .cmd) (hr : s.control.run = false) : events new = [] ∧ timerRequests new = [] := by
  cases hnew with
  | nothing => exact ⟨rfl, rfl⟩
  | record => exact ⟨rfl, rfl⟩
  | request => cases hf
  | tick _ _ hr' | tickError _ _ hr' | second _ _ hr' | minute _ _ hr' => exact absurd (hr.symm.trans hr') Bool.false_ne_true

/-- `t` is a stopped engine that has presented the events and requests of `s` and no more, and nothing starts it. -/
structure State.StaysSilentAt (s t : State) : Prop where
  stopped : t.control.run = false
  events : events t.outputs = events s.outputs
  requests : timerRequests t.outputs = timerRequests s.outputs
  unstarted : ∀ x ∈ t.pending, x.startsNothing

/-- Only START sets `RUN` (R25, R201). -/
theorem exec_keeps_stopped {i : Instr} {s t : State} (hi : i ≠ .start) (hr : s.control.run = false)
    (h : exec i s = .next t) : t.control.run = false := by
  obtain e | ⟨hstart, -⟩ | ⟨-, e⟩ := exec_control_cases i s t h
  · rw [e, hr]
  · exact absurd hstart hi
  · rw [e]

theorem exec_command_staysSilent {i : Instr} {s t : State} (hf : i.format = .cmd) (hi : i ≠ .start)
    (hr : s.control.run = false) (hp : ∀ x ∈ s.pending, x.startsNothing) (h : exec i s = .next t) :
    s.StaysSilentAt t := by
  obtain ⟨new, ho, hnew⟩ := exec_mayPresent i s t h
  obtain ⟨hevents, hrequests⟩ := hnew.silent_of_stopped hf hr
  obtain ⟨-, -, hpending⟩ := exec_command_keeps_buses_and_pending i s t hf h
  exact ⟨exec_keeps_stopped hi hr h, by simp [ho, hevents], by simp [ho, hrequests], by rwa [hpending]⟩

/-- A step of a stopped engine waits, resets, or performs a command other than START. -/
theorem step_staysSilent {s t : State} (hr : s.control.run = false) (hp : ∀ x ∈ s.pending, x.startsNothing)
    (h : step s = .next t) : s.StaysSilentAt t := by
  obtain ⟨-, rfl⟩ | ⟨rest, e, rfl⟩ | ⟨w, now, rest, i, e, hd, hf, he⟩ | ⟨w, now, rest, i, e, -, -, -⟩ := step_cases s t h
  · exact ⟨hr, rfl, rfl, hp⟩
  all_goals
    rw [e] at hp
    obtain ⟨hx, hrest⟩ := List.forall_mem_cons.1 hp
  · exact ⟨rfl, rfl, rfl, hrest⟩
  · have hi : i ≠ .start := fun hstart => hx (hd.trans (congrArg _ hstart))
    obtain ⟨hstopped, hevents, hrequests, hunstarted⟩ :=
      exec_command_staysSilent (s := s.beginCommand now rest) hf hi hr hrest he
    exact ⟨hstopped, hevents, hrequests, hunstarted⟩
  · exact hx.elim

/-- Settles O57, by induction on the run. -/
theorem stoppedEngineStaysSilent : Obligations.StoppedEngineStaysSilent := by
  intro s t h hr hp
  induction h with
  | refl s => exact ⟨hr, rfl, rfl⟩
  | step hst _ ih =>
    obtain ⟨hstopped, hevents, hrequests, hunstarted⟩ := step_staysSilent hr hp hst
    obtain ⟨hr', hevents', hrequests'⟩ := ih hstopped hunstarted
    exact ⟨hr', hevents'.trans hevents, hrequests'.trans hrequests⟩

end Sys2Proof.Machine
end

section
/-! PROOFS. The statements of `70_reset_and_hazards.md`: waiting after reset (R271), the two restarts (R272), a stamp before
the reference (R277), and a FIRE that comes late (R278). -/

namespace Sys2Proof.Machine

/-! ### R278: a FIRE that comes after the next EDGE -/

/-- An EDGE classified `TICK(n)`, a boundary or not, supersedes the outstanding request by the next one (R182, R205). -/
theorem exec_edge_sched_of_tick {s t : State} {t0 : Tick} {n : Nat} (hr : s.control.run = true)
    (hc : (s.tracker.classify t0).2 = .tick n) (h : exec (.edge t0) s = .next t) :
    t.sched = ⟨true, s.sched.tag + 1⟩ := by
  obtain ⟨hidle, -⟩ | ⟨r, -, hinvalid, -⟩ | ⟨_, -, -, -, rfl⟩ | ⟨_, -, -, -, rfl⟩ := execEdge_cases s t t0 h
  · exact absurd (hidle.symm.trans hr) Bool.false_ne_true
  · exact absurd (hinvalid.symm.trans hc) nofun
  · rfl
  · rfl

theorem tag_ne_add_one (tag : Tag) : tag ≠ tag + 1 := mt left_eq_add.1 (by decide)

/-- Settles O48: a tick replaces the tag that the FIRE has to match; an INVALID edge leaves the scheduler as it is. -/
theorem lateFireMeetsTheSupersedingTag : Obligations.LateFireMeetsTheSupersedingTag := by
  intro s t t0 level hr hb he
  refine ⟨fun n hc => ?_, fun r hc => ?_⟩
  · have hsched := exec_edge_sched_of_tick hr hc he
    refine otherFiresAreDiscarded t s.sched.tag level (.inr (.inr ?_))
    rw [hsched]
    exact tag_ne_add_one s.sched.tag
  · cases (exec_edge_of_invalid hr (Prod.ext rfl hc)).symm.trans he
    exact ⟨_, exec_fire_of_accepts level ((State.accepts_iff _ _).2 ⟨hr, hb, rfl⟩), rfl, rfl⟩

/-! ### R271: waiting after reset -/

theorem step_of_nothing_offered {s : State} (hp : s.pending = []) : step s = .next s := by
  simp only [step, hp, State.wait]

/-- STOP writes the values that a stopped engine already holds (R202). -/
theorem exec_stop_of_stopped {s : State} (hc : s.control = ⟨false, false, false⟩) (hb : s.sched.busy = false) :
    exec .stop s = .next s := by
  have e : exec .stop s = .next { s with control := ⟨false, false, false⟩, sched := ⟨false, s.sched.tag⟩ } := rfl
  rw [e, ← hc, ← hb]

/-- START sets `RUN`, which a stopped engine has not set (R201). -/
theorem exec_start_changes_registers {s : State} (hr : s.control.run = false) :
    ∃ t, exec .start s = .next t ∧ ¬ t.sameRegisters s := by
  refine ⟨_, rfl, fun ⟨hcontrol, _⟩ => ?_⟩
  have hrun : true = s.control.run := congrArg Control.run hcontrol
  exact Bool.false_ne_true (hr.symm.trans hrun.symm)

/-- Settles O12: with the registers of reset `RUN` and `SCHED_BUSY` are 0. -/
theorem afterResetTheBlockWaits : Obligations.AfterResetTheBlockWaits := by
  refine ⟨fun s hp => step_of_nothing_offered hp, fun s ⟨hcontrol, _, _, hsched⟩ => ?_⟩
  have hrun : s.control.run = false := congrArg Control.run hcontrol
  have hbusy : s.sched.busy = false := congrArg Scheduler.busy hsched
  exact ⟨fun t0 => edgeWhileIdleIsIgnored s t0 hrun, fun tag level => otherFiresAreDiscarded s tag level (.inl hrun),
    exec_stop_of_stopped hcontrol hbusy, ⟨_, rfl, rfl, rfl, rfl, rfl⟩, exec_start_changes_registers hrun⟩

/-! ### R272: restart by reset and by STOP -/

theorem step_reset {s : State} {rest : List Input} (hp : s.pending = .reset :: rest) :
    step s = .next (s.applyReset rest) := by
  simp only [step, hp]

/-- Settles O13: START writes every register but the tag, which reset clears and STOP keeps. -/
theorem resetAndStopRestartAlike : Obligations.ResetAndStopRestartAlike := fun _ _ hp =>
  ⟨_, _, _, _, step_reset hp, rfl, rfl, rfl, rfl, rfl, rfl, rfl, rfl, rfl⟩

/-! ### R277: a stamp before the reference -/

/-- A stamp before the reference is not one cell after it (R104). -/
theorem Tracker.not_fits_of_neg {tr : Tracker} {t : Tick} (hl : 0 < tr.len.toNat) (hd : tdiff t tr.h0 < 0) :
    ¬ tr.fits t := by
  intro hf
  have hfirst : (tdiff t tr.h0 - ((0 : Nat) + 1 : Int) * 1000).natAbs < 50 := hf 0 hl
  omega

/-- Settles O30: a negative delta is below every window, so the edge is early when locked and off the cadence when
calibrating. -/
theorem backwardStampsAreNeverTicks : Obligations.BackwardStampsAreNeverTicks := by
  intro s t0 hr hd
  refine ⟨fun hl => ?_, fun hl => ?_⟩
  · exact exec_edge_of_invalid hr (s.tracker.classify_of_le t0 hl (by omega))
  · have hlen : 0 < s.tracker.len.toNat ∧ s.tracker.len.toNat < 3 := by
      obtain h | h := hl <;> rw [h] <;> decide
    exact exec_edge_of_invalid hr (s.tracker.classify_of_not_fits t0 hlen.2 (Tracker.not_fits_of_neg hlen.1 hd))

end Sys2Proof.Machine
end
